-- ==== Sys2Proof/Word.lean ====
section
/-! DEFINITION. The widths of the spec (00_scope.md R10, 30_encoding.md R62) and the names of the four lines (10_state.md R18). -/

namespace Sys2Proof

/-- The unit of the serializer: 8 bits per SEND_BYTE (R10). -/
abbrev Byte := BitVec 8

/-- The 32-bit unsigned tuning word (R10). -/
abbrev TuningWord := BitVec 32

/-- The 40-bit control word, the command frame read as one value (R2, R58). -/
abbrev ControlWord := BitVec 40

/-- The 64-bit word by which the host gives one command (R62). -/
abbrev CommandWord := BitVec 64

/-- The four logical lines, in the order of the bootstrap's list (R18). -/
inductive Line where
  | clk
  | update
  | data
  | reset
deriving DecidableEq, Repr, Inhabited

/-- One value per logical line: "exactly four GPIO lines" (R18). -/
structure Lines (α : Type) where
  clk    : α
  update : α
  data   : α
  reset  : α
deriving DecidableEq, Repr, Inhabited

end Sys2Proof
end

