-- ==== Sys2Proof/Config.lean ====
section
/-! DEFINITION. The implementation parameters of 00_scope.md section 3 (R8 to R14), the answers a platform can give
(20_memory.md R36 to R39), and the free values: the configuration this hardware was built with and the answers of a
platform that nothing constrains (R41). -/

namespace Sys2Proof

/-- R8: `P_REFCLK`, in Hz. -/
def Config.refclk : Nat := 125000000

/-- R9: `P_FMAX`, in Hz. -/
def Config.fmax : Nat := 40000000

/-- R14: `P_INIT_LOW_ORDER`, the order of the bootstrap's four low writes. -/
def Config.initLowOrder : List Line := [.clk, .update, .data, .reset]

/-- The OPEN parameters (R11, R12, R13) and the timing-only `P_EXPORT_RETRY_DELAY` (R12).
DESIGN CHOICE (notes/assumptions/1.md): they travel in a read-only field of State; no operation writes them (R31). -/
structure Config where
  /-- R11: `P_PIN_CLK`, `P_PIN_UPDATE`, `P_PIN_DATA`, `P_PIN_RESET`, the platform's line numbers. -/
  pins              : Lines Nat
  /-- R12: `P_EXPORT_MAX_ATTEMPTS`, at least 1. -/
  exportMaxAttempts : Nat
  /-- R12: `P_EXPORT_RETRY_DELAY` in milliseconds; no rule depends on it. -/
  exportRetryDelay  : Nat
  /-- R13: `P_EXIT_FREQ_MAX`, an integer different from 0 and from 1. -/
  exitFreqMax       : Int
deriving DecidableEq, Repr, Inhabited

/-- An operating-system error, as the platform reports it. Its content is the platform's (R24, D27): a bare name
(DESIGN CHOICE, notes/assumptions/9.md). -/
abbrev OsError := Nat

/-- R36: the answers of `PinProbe`. -/
inductive ProbeAnswer where
  | present
  | absent
  | fail (e : OsError)
  | hang
deriving DecidableEq, Repr, Inhabited

/-- R37: the answers of `PinExport`. -/
inductive ExportAnswer where
  | ok
  | already
  | fail (e : OsError)
  | hang
deriving DecidableEq, Repr, Inhabited

/-- R38 and R39: the answers of `PinSetDir` and of `PinWrite`. -/
inductive WriteAnswer where
  | ok
  | fail (e : OsError)
  | hang
deriving DecidableEq, Repr, Inhabited

/-- FREE VALUE: the configuration the machine of `State.reset` has. The source gives the OPEN parameters no value (R11 to
R13, 91_not_in_source.md N4 to N6), so nothing is known of it (notes/assumptions/1.md). -/
opaque Config.chosen : Config

/-- FREE VALUE: what the platform answers to probe number `n` of a line where no answer is listed in State (R41). -/
opaque Config.freeProbe : Line → Nat → ProbeAnswer

/-- FREE VALUE: what the platform answers to export request number `n` where no answer is listed in State (R41). -/
opaque Config.freeExport : Nat → ExportAnswer

/-- FREE VALUE: what the platform answers to direction write number `n` where no answer is listed in State (R41). -/
opaque Config.freeDir : Nat → WriteAnswer

/-- FREE VALUE: what the platform answers to level write number `n` where no answer is listed in State (R41). -/
opaque Config.freeWrite : Nat → WriteAnswer

end Sys2Proof
end

