-- ==== Sys2Proof/Syntax.lean ====
section
/-! DEFINITION. The nine commands (30_encoding.md R64; spec/opcode_table.json), one constructor of `Instr` per row. -/

namespace Sys2Proof

/-- One name per row of the opcode table (R64). -/
inductive Opcode where
  | ensureExported
  | setDirection
  | writeLevel
  | pulse
  | sendByte
  | loadFrequency
  | initializeLines
  | setFreq
  | shutdown
deriving DecidableEq, Repr

/-- A command with its operands. Frequencies and phases are integers (R15, R65: the fields are read zero-extended); a byte
is eight bits (R77), a level is a bit with `true` for high (R75). INITIALIZE's constructor is `initializeLines`. -/
inductive Instr where
  | ensureExported (i : Line)
  | setDirection (i : Line)
  | writeLevel (i : Line) (b : Bool)
  | pulse (i : Line)
  | sendByte (value : Byte)
  | loadFrequency (f : Nat) (phase : Nat) (powerDown : Bool)
  | initializeLines
  | setFreq (f : Nat) (phase : Nat)
  | shutdown
deriving DecidableEq, Repr

/-- The row of the opcode table a command belongs to (R64). -/
def Instr.opcode : Instr → Opcode
  | .ensureExported _ => .ensureExported
  | .setDirection _ => .setDirection
  | .writeLevel _ _ => .writeLevel
  | .pulse _ => .pulse
  | .sendByte _ => .sendByte
  | .loadFrequency _ _ _ => .loadFrequency
  | .initializeLines => .initializeLines
  | .setFreq _ _ => .setFreq
  | .shutdown => .shutdown

end Sys2Proof
end

