-- ==== Sys2Proof/WellFormed.lean ====
section
/-! DEFINITION. Which commands have a command word: the operands that must fit their fields (30_encoding.md R62).
The value-range checks of R67 are not here: a word outside those ranges decodes, and its command is then refused. -/

namespace Sys2Proof

/-- R62: the FREQ field has 32 bits. -/
def fitsFreq (f : Nat) : Bool := decide (f < 2 ^ 32)

/-- R62: the PHASE field has 8 bits. -/
def fitsPhase (phase : Nat) : Bool := decide (phase < 2 ^ 8)

/-- The operands fit the fields of the command word (R62). Lines, levels, flags and bytes fit by their type. -/
def Instr.wellFormed : Instr → Bool
  | .ensureExported _ => true
  | .setDirection _ => true
  | .writeLevel _ _ => true
  | .pulse _ => true
  | .sendByte _ => true
  | .loadFrequency f phase _ => fitsFreq f && fitsPhase phase
  | .initializeLines => true
  | .setFreq f phase => fitsFreq f && fitsPhase phase
  | .shutdown => true

end Sys2Proof
end

