-- ==== Sys2Proof/Decode.lean ====
section
/-! DEFINITION. The command word (30_encoding.md R62 to R68): the decoder, total on 64-bit words and rejecting by name,
and the encoder written from the same tables. -/

namespace Sys2Proof

/-! ## The fields of R62 -/

def fieldOpc (w : CommandWord) : BitVec 8 := w.extractLsb' 56 8
def fieldByte (w : CommandWord) : BitVec 8 := w.extractLsb' 48 8
def fieldPin (w : CommandWord) : BitVec 2 := w.extractLsb' 46 2
def fieldLvl (w : CommandWord) : BitVec 1 := w.extractLsb' 45 1
def fieldPd (w : CommandWord) : BitVec 1 := w.extractLsb' 44 1
def fieldRsv (w : CommandWord) : BitVec 4 := w.extractLsb' 40 4
def fieldPhase (w : CommandWord) : BitVec 8 := w.extractLsb' 32 8
def fieldFreq (w : CommandWord) : BitVec 32 := w.extractLsb' 0 32

/-- R18: the logical index of a line. -/
def Line.index : Line → Nat
  | .clk => 0
  | .update => 1
  | .data => 2
  | .reset => 3

/-- R63: the line the PIN field names; all four values are legal. -/
def Line.ofPin (p : BitVec 2) : Line :=
  if p = 0 then .clk else if p = 1 then .update else if p = 2 then .data else .reset

/-- R63: the PIN field of a line. -/
def Line.toPin (i : Line) : BitVec 2 := BitVec.ofNat 2 i.index

/-! ## The opcode table of R64 -/

/-- R64: the OPC column. -/
def Opcode.code : Opcode → BitVec 8
  | .ensureExported => 0x01
  | .setDirection => 0x02
  | .writeLevel => 0x03
  | .pulse => 0x04
  | .sendByte => 0x10
  | .loadFrequency => 0x20
  | .initializeLines => 0x30
  | .setFreq => 0x40
  | .shutdown => 0x41

/-- R64: the match column. -/
def Opcode.matchBits : Opcode → CommandWord
  | .ensureExported => 0x0100000000000000
  | .setDirection => 0x0200200000000000
  | .writeLevel => 0x0300000000000000
  | .pulse => 0x0400000000000000
  | .sendByte => 0x1000000000000000
  | .loadFrequency => 0x2000000000000000
  | .initializeLines => 0x3000000000000000
  | .setFreq => 0x4000000000000000
  | .shutdown => 0x4100000000000000

/-- R64: the mask column. -/
def Opcode.maskBits : Opcode → CommandWord
  | .ensureExported => 0xFFFF3FFFFFFFFFFF
  | .setDirection => 0xFFFF3FFFFFFFFFFF
  | .writeLevel => 0xFFFF1FFFFFFFFFFF
  | .pulse => 0xFFFF3FFFFFFFFFFF
  | .sendByte => 0xFF00FFFFFFFFFFFF
  | .loadFrequency => 0xFFFFEF0000000000
  | .initializeLines => 0xFFFFFFFFFFFFFFFF
  | .setFreq => 0xFFFFFF0000000000
  | .shutdown => 0xFFFFFFFFFFFFFFFF

/-- The rows of the table, in its order (R64). -/
def opcodeTable : List Opcode :=
  [.ensureExported, .setDirection, .writeLevel, .pulse, .sendByte, .loadFrequency, .initializeLines, .setFreq, .shutdown]

/-- R65: a word belongs to the row whose `(w & mask) = match`. -/
def Opcode.matchesWord (op : Opcode) (w : CommandWord) : Bool := (w &&& op.maskBits) == op.matchBits

/-- R65: the operands of a row, each read from its field and zero-extended. -/
def decodeOperands (op : Opcode) (w : CommandWord) : Instr :=
  match op with
  | .ensureExported => .ensureExported (Line.ofPin (fieldPin w))
  | .setDirection => .setDirection (Line.ofPin (fieldPin w))
  | .writeLevel => .writeLevel (Line.ofPin (fieldPin w)) (fieldLvl w == 1)
  | .pulse => .pulse (Line.ofPin (fieldPin w))
  | .sendByte => .sendByte (fieldByte w)
  | .loadFrequency => .loadFrequency (fieldFreq w).toNat (fieldPhase w).toNat (fieldPd w == 1)
  | .initializeLines => .initializeLines
  | .setFreq => .setFreq (fieldFreq w).toNat (fieldPhase w).toNat
  | .shutdown => .shutdown

/-- R66: why a word spells no command. All four are the refusal `ILLEGAL_WORD`. -/
inductive DecodeError where
  /-- "an unassigned OPC" -/
  | unassignedOpcode
  /-- "a nonzero RSV" -/
  | reservedNonzero
  /-- "SET_DIRECTION with LVL = 0", every other field as the row asks -/
  | directionInput
  /-- "a nonzero field the command does not use" -/
  | unusedFieldNonzero
deriving DecidableEq, Repr

/-- The name of the reason a word that matches no row is illegal (R66), the first of the list that applies. -/
def illegalKind (w : CommandWord) : DecodeError :=
  if opcodeTable.all (fun op => fieldOpc w != op.code) then .unassignedOpcode
  else if fieldRsv w ≠ 0 then .reservedNonzero
  else if Opcode.matchesWord .setDirection (w ||| 0x0000200000000000) then .directionInput
  else .unusedFieldNonzero

/-- R65 and R66: the decoder, total on the 64-bit words (R68: every command is one such word). -/
def decode (w : CommandWord) : Except DecodeError Instr :=
  match opcodeTable.find? (fun op => op.matchesWord w) with
  | some op => .ok (decodeOperands op w)
  | none => .error (illegalKind w)

/-- R62: a command word from its fields, RSV zero. -/
def packWord (opc byte : BitVec 8) (pin : BitVec 2) (lvl pd : BitVec 1) (phase : BitVec 8) (freq : BitVec 32) :
    CommandWord :=
  opc ++ byte ++ pin ++ lvl ++ pd ++ (0 : BitVec 4) ++ phase ++ freq

/-- The command word of a command (R62, R64): the used fields hold the operands, every other field is 0. -/
def encode (i : Instr) : CommandWord :=
  match i with
  | .ensureExported l => packWord i.opcode.code 0 l.toPin 0 0 0 0
  | .setDirection l => packWord i.opcode.code 0 l.toPin 1 0 0 0
  | .writeLevel l b => packWord i.opcode.code 0 l.toPin (BitVec.ofBool b) 0 0 0
  | .pulse l => packWord i.opcode.code 0 l.toPin 0 0 0 0
  | .sendByte v => packWord i.opcode.code v 0 0 0 0 0
  | .loadFrequency f p d =>
    packWord i.opcode.code 0 0 0 (BitVec.ofBool d) (BitVec.ofNat 8 p) (BitVec.ofNat 32 f)
  | .initializeLines => packWord i.opcode.code 0 0 0 0 0 0
  | .setFreq f p => packWord i.opcode.code 0 0 0 0 (BitVec.ofNat 8 p) (BitVec.ofNat 32 f)
  | .shutdown => packWord i.opcode.code 0 0 0 0 0 0

/-- The instruction the decoder reads from a word numbered as spec/opcode_table.json numbers it: bit 0 is the least
significant bit of the one 64-bit word, and the bits above `nbits` are 0 (R62, R68).
A number that needs more than 64 bits is no command word. -/
def decodeTableWord (nbits w : Nat) : Option Instr :=
  if w % 2 ^ nbits < 2 ^ 64 then
    match decode (BitVec.ofNat 64 (w % 2 ^ nbits)) with
    | .ok i => some i
    | .error _ => none
  else none

end Sys2Proof
end

