-- ==== Sys2Proof/Machine/State.lean ====
section
/-! DEFINITION. The state of the block (10_state.md), the inputs it still has to take (43_session.md R84, 20_memory.md
R41), the reasons a step can stop, and the launch (70_reset_and_hazards.md R109). -/

namespace Sys2Proof.Machine

/-- R20: what the block knows of a line's direction; "input" never occurs (D33). -/
inductive Dir where
  | unknown
  | out
deriving DecidableEq, Repr

/-- R19 to R21: what the block knows of one line. A level is `none` for `UNKNOWN`, else the level last driven. -/
structure Pin where
  exported : Bool
  dir      : Dir
  level    : Option Bool
deriving DecidableEq, Repr

/-- R22: the session state. -/
inductive Sess where
  | uninit
  | booted
  | halted
deriving DecidableEq, Repr

/-- R23: the error cause. -/
inductive Cause where
  | none
  | eIo
  | eFreqMax
deriving DecidableEq, Repr

/-- R24, R91: what an `E_IO` records: the platform's error, or `EXPORT_EXHAUSTED`. -/
inductive ErrInfo where
  | os (e : OsError)
  | exportExhausted
deriving DecidableEq, Repr

/-- R90: the two exceptions of the block. -/
inductive Exn where
  | io (info : ErrInfo)
  | freqMax
deriving DecidableEq, Repr

/-- R26: a write access of the block: an export request, a write of direction "output", a write of a level. -/
inductive Event where
  | exportReq (i : Line)
  | setDir (i : Line)
  | write (i : Line) (b : Bool)
deriving DecidableEq, Repr

/-- R94: the closed list of refusal reasons. -/
inductive RefusalReason where
  | illegalWord
  | badState
  | lineNotOutput
  | phaseRange
  | freqRange
  | badConfig
  | helpOrUnparsed
deriving DecidableEq, Repr

/-- R41: the platform's answers to one kind of access: the listed answers to the next ones, and how many have been made. An access past the list gets the answer `ever`, where one is given, else a free value of Config (notes/assumptions/2.md). -/
structure Feed (α : Type) where
  queue : List α
  ever  : Option α
  given : Nat
deriving DecidableEq, Repr

/-- R41: the oracle, one feed per primitive of R36 to R39, and of probes one per line: whether a line is present is the
line's own (R42). -/
structure Platform where
  probes  : Lines (Feed ProbeAnswer)
  exports : Feed ExportAnswer
  dirs    : Feed WriteAnswer
  writes  : Feed WriteAnswer
deriving DecidableEq, Repr

/-- R72: the source's external interface as its command lines are sorted; parsing argument strings is out of scope (R6).
DEDUCED (notes/assumptions/10.md): where a number out of range is sorted. -/
inductive CommandLine where
  /-- "No arguments" -/
  | noArguments
  /-- "First argument starting with `o`" -/
  | shutdownFlag
  /-- "First argument = frequency in hertz", with the "optional second argument = phase" -/
  | frequency (hz : Nat) (phase : Option Nat)
  /-- every other command line (91_not_in_source.md N14) -/
  | unparsed
deriving DecidableEq, Repr

/-- What the host gives next (R84, R85 (a)): a command word, or a command line of the external interface (R72). -/
inductive HostInput where
  | word (w : CommandWord)
  | line (c : CommandLine)
deriving DecidableEq, Repr

/-- The machine. `cfg` is the configuration, which no operation writes (R31); `refusal`, `stuck`, `platform` and `inputs`
are the model's own (notes/assumptions/1.md to 5.md); the rest is the block's state of 10_state.md. -/
structure State where
  /-- R31: the configuration (notes/assumptions/1.md). -/
  cfg      : Config
  /-- R18 to R21: the four lines. -/
  pins     : Lines Pin
  /-- R22 -/
  sess     : Sess
  /-- R23 -/
  cause    : Cause
  /-- R24 -/
  errinfo  : Option ErrInfo
  /-- R25 -/
  exit     : Option Int
  /-- R26: oldest first. -/
  trace    : List Event
  /-- R27 -/
  refused  : Bool
  /-- R94: the reason of the latest refusal (the model's own, notes/assumptions/3.md). -/
  refusal  : Option RefusalReason
  /-- R99: an access has answered `HANG` (the model's own, notes/assumptions/4.md). -/
  stuck    : Bool
  /-- R41: the answers still to come (the model's own, notes/assumptions/2.md). -/
  platform : Platform
  /-- R84: the commands still to come (the model's own, notes/assumptions/5.md). -/
  inputs   : List HostInput
deriving DecidableEq, Repr

/-- Why a step stops. -/
inductive Fault where
  /-- Raised by `step` in a state whose last access answered `HANG`: "the block then has no further step" (R99). Safe
  (notes/assumptions/4.md). -/
  | stuck
deriving DecidableEq, Repr

/-- Why the model makes no step. -/
inductive Refusal where
  /-- An instruction without a meaning. No arm of `exec` raises it. Safe. -/
  | notModelled (mnemonic : String)
  /-- Raised by `step` where the host has given no further command: the run's list is done (R84). Safe
  (notes/assumptions/5.md). -/
  | noCommand
deriving DecidableEq, Repr

/-- R19 to R21: a line at launch. -/
def Pin.launch : Pin := { exported := false, dir := .unknown, level := none }

/-- A feed with nothing listed. -/
def Feed.empty {α : Type} : Feed α := { queue := [], ever := none, given := 0 }

/-- An oracle with no answer listed. -/
def Platform.empty : Platform :=
  { probes := { clk := .empty, update := .empty, data := .empty, reset := .empty }
    exports := .empty
    dirs := .empty
    writes := .empty }

/-- R109: the block at its launch, under a configuration, a platform and the host's list of commands. -/
def State.launch (cfg : Config) (platform : Platform) (inputs : List HostInput) : State :=
  { cfg := cfg
    pins := { clk := .launch, update := .launch, data := .launch, reset := .launch }
    sess := .uninit
    cause := .none
    errinfo := none
    exit := none
    trace := []
    refused := false
    refusal := none
    stuck := false
    platform := platform
    inputs := inputs }

/-- The machine right after reset: the launch of R109, with nothing known of the configuration or of the platform and no
command given (notes/assumptions/1.md, 2.md and 5.md). -/
def State.reset : State := State.launch Config.chosen Platform.empty []

end Sys2Proof.Machine
end

