-- ==== Sys2Proof/Machine/Flags.lean ====
section
/-! DEFINITION. The block has no condition codes (10_state.md R32); its only status is `sess`, `cause` and `exit`. Here:
the cause codes, the exit statuses (60_exceptions.md R90) and the admission table over `sess` (43_session.md R82). -/

namespace Sys2Proof.Machine

/-- R23, R90: the code of a cause. -/
def Cause.code : Cause → Nat
  | .none => 0
  | .eIo => 1
  | .eFreqMax => 2

/-- R97 (b): the cause an exception sets. -/
def Exn.cause : Exn → Cause
  | .io _ => .eIo
  | .freqMax => .eFreqMax

/-- R25: the exit status of a session that ends with a given cause: 0 on success, 1 after `E_IO`, `P_EXIT_FREQ_MAX` after
`E_FREQ_MAX`. -/
def exitStatus (cfg : Config) : Cause → Int
  | .none => 0
  | .eIo => 1
  | .eFreqMax => cfg.exitFreqMax

/-- R97 (b): `errinfo` is written for `E_IO` only. -/
def Exn.errinfo (x : Exn) (old : Option ErrInfo) : Option ErrInfo :=
  match x with
  | .io info => some info
  | .freqMax => old

/-- The admission table of R82. -/
def admits : Opcode → Sess → Bool
  | .ensureExported, .uninit | .ensureExported, .booted => true
  | .setDirection, .uninit | .setDirection, .booted => true
  | .writeLevel, .uninit | .writeLevel, .booted => true
  | .pulse, .uninit | .pulse, .booted => true
  | .sendByte, .uninit | .sendByte, .booted => true
  | .loadFrequency, .booted => true
  | .initializeLines, .uninit => true
  | .setFreq, .uninit | .shutdown, .uninit => true
  | .ensureExported, .halted | .setDirection, .halted | .writeLevel, .halted | .pulse, .halted | .sendByte, .halted => false
  | .loadFrequency, .uninit | .loadFrequency, .halted => false
  | .initializeLines, .booted | .initializeLines, .halted => false
  | .setFreq, .booted | .setFreq, .halted | .shutdown, .booted | .shutdown, .halted => false

end Sys2Proof.Machine
end

