-- ==== Sys2Proof/Machine/Operands.lean ====
section
/-! DEFINITION. What the encoder computes from its operands: tuning word, control byte and command frame
(42_encoder.md R78 and R79, 30_encoding.md R58 to R61, 20_memory.md R43 to R45). -/

namespace Sys2Proof.Machine

/-- R78: `TW(f) = floor(f * 2^32 / P_REFCLK)`, exact over the integers (R15), as an integer. -/
def tuningWordNat (f : Nat) : Nat := f * 2 ^ 32 / Config.refclk

/-- R78: the tuning word, 32 bits. -/
def tuningWord (f : Nat) : TuningWord := BitVec.ofNat 32 (tuningWordNat f)

/-- R79: `CB(phase, power_down) = (phase << 3) | (power_down << 2)`, 8 bits. -/
def controlByte (phase : Nat) (powerDown : Bool) : Byte :=
  (BitVec.ofNat 8 phase <<< 3) ||| ((BitVec.ofBool powerDown).zeroExtend 8 <<< 2)

/-- R58: `W = cat(cb, tw)`. -/
def controlWord (tw : TuningWord) (cb : Byte) : ControlWord := cb ++ tw

/-- R43: byte `j` of the tuning word, `tw[8j+7:8j]`. -/
def tuningByte (tw : TuningWord) (j : Nat) : Byte := tw.extractLsb' (8 * j) 8

/-- R81: `[tw[7:0], tw[15:8], tw[23:16], tw[31:24], cb]`, in the order sent. -/
def commandFrame (tw : TuningWord) (cb : Byte) : List Byte :=
  [tuningByte tw 0, tuningByte tw 1, tuningByte tw 2, tuningByte tw 3, cb]

/-- R45: the 32-bit value of four little-endian bytes, `b0 | b1 << 8 | b2 << 16 | b3 << 24`. -/
def wordOfBytes (b0 b1 b2 b3 : Byte) : TuningWord :=
  b0.zeroExtend 32 ||| (b1.zeroExtend 32 <<< 8) ||| (b2.zeroExtend 32 <<< 16) ||| (b3.zeroExtend 32 <<< 24)

/-- R81: the frame LOAD_FREQUENCY sends for its operands. -/
def frameOf (f phase : Nat) (powerDown : Bool) : List Byte := commandFrame (tuningWord f) (controlByte phase powerDown)

/-- R58: the control word LOAD_FREQUENCY sends for its operands. -/
def wordOf (f phase : Nat) (powerDown : Bool) : ControlWord := controlWord (tuningWord f) (controlByte phase powerDown)

end Sys2Proof.Machine
end

