-- ==== Sys2Proof/Machine/Ops.lean ====
section
/-! DEFINITION. The shared operations: lines and their records, the oracle, the four access primitives
(20_memory.md R36 to R40), the outcomes of an operation (00_scope.md R17), refusing, taking an exception
(60_exceptions.md R97), and admission (43_session.md R82, 60_exceptions.md R96). -/

namespace Sys2Proof.Machine

/-! ## Lines -/

/-- The entry of a line. -/
def linesGet {α : Type} (l : Lines α) : Line → α
  | .clk => l.clk
  | .update => l.update
  | .data => l.data
  | .reset => l.reset

/-- The entry of one line replaced. -/
def linesSet {α : Type} (l : Lines α) (i : Line) (a : α) : Lines α :=
  match i with
  | .clk => { l with clk := a }
  | .update => { l with update := a }
  | .data => { l with data := a }
  | .reset => { l with reset := a }

/-- The same entry for every line. -/
def linesAll {α : Type} (a : α) : Lines α := { clk := a, update := a, data := a, reset := a }

/-- A count of one line: `n` for that line, 0 for the others. -/
def countOf (i : Line) (n : Nat) : Lines Nat := linesSet (linesAll 0) i n

/-- The counts of four lines, line by line. -/
def linesAdd (a b : Lines Nat) : Lines Nat :=
  { clk := a.clk + b.clk, update := a.update + b.update, data := a.data + b.data, reset := a.reset + b.reset }

/-- The count of all lines together. -/
def linesSum (a : Lines Nat) : Nat := a.clk + a.update + a.data + a.reset

/-- R18: every line, in the source's order. -/
def allLines : List Line := [.clk, .update, .data, .reset]

/-- R16: the record `pin[i]`. -/
def State.pin (s : State) (i : Line) : Pin := linesGet s.pins i

/-- The record `pin[i]` replaced. -/
def State.setPin (s : State) (i : Line) (p : Pin) : State := { s with pins := linesSet s.pins i p }

/-- R19: `pin[i].exported <- 1`. -/
def State.setExported (s : State) (i : Line) : State := s.setPin i { s.pin i with exported := true }

/-- R20, R21: `pin[i].dir <- d ; pin[i].level <- UNKNOWN`, what a direction write leaves (R74). -/
def State.setDir (s : State) (i : Line) (d : Dir) : State := s.setPin i { s.pin i with dir := d, level := none }

/-- R21: `pin[i].level <- l`. -/
def State.setLevel (s : State) (i : Line) (l : Option Bool) : State := s.setPin i { s.pin i with level := l }

/-- R75: a line that may be written: exported and an output. -/
def State.lineIsOutput (s : State) (i : Line) : Bool := (s.pin i).exported && (s.pin i).dir == .out

/-! ## Block-wide state -/

/-- R16: `emit(e)` appends an event to `trace`. -/
def State.emit (s : State) (e : Event) : State := { s with trace := s.trace ++ [e] }

/-- R83: `sess <- BOOTED`. -/
def State.boot (s : State) : State := { s with sess := .booted }

/-- R86, R87: `sess <- HALTED ; exit <- 0`. -/
def State.endSession (s : State) : State := { s with sess := .halted, exit := some 0 }

/-- R17, R27: `refuse(reason)` writes the refusal mark and nothing else of the block's state. -/
def State.refuse (s : State) (r : RefusalReason) : State := { s with refused := true, refusal := some r }

/-- R99: an access has not returned; `cause`, `exit` and `sess` stay. -/
def State.hang (s : State) : State := { s with stuck := true }

/-- TAKING AN EXCEPTION, R97 (b) to (d): `cause`, `errinfo`, `sess` and `exit`. Nothing is saved elsewhere (R97 (f)), and
there is no return: the block has no handler and a raised exception ends the session (R98). -/
def State.takeException (s : State) (x : Exn) : State :=
  { s with
    cause := x.cause
    errinfo := x.errinfo s.errinfo
    sess := .halted
    exit := some (exitStatus s.cfg x.cause) }

/-- R85 (b): what the host reads, once the session has halted. -/
def State.hostExit (s : State) : Option Int := if s.sess = .halted then s.exit else none

/-! ## The oracle (R41) -/

/-- The answer to the access `k` accesses from now, `k = 0` the next one: the listed one, or the one given for ever after, or
a free value by the number of the access. -/
def Feed.answer {α : Type} (free : Nat → α) (d : Feed α) (k : Nat) : α := (d.queue[k]?).getD (d.ever.getD (free (d.given + k)))

/-- The feed after `n` accesses. -/
def Feed.after {α : Type} (d : Feed α) (n : Nat) : Feed α := { d with queue := d.queue.drop n, given := d.given + n }

/-- R36: the answer to the probe of a line `k` probes of it from now. -/
def State.probeAnswer (s : State) (i : Line) (k : Nat) : ProbeAnswer :=
  (linesGet s.platform.probes i).answer (Config.freeProbe i) k

/-- R37: the answer to the export request `k` requests from now. -/
def State.exportAnswer (s : State) (k : Nat) : ExportAnswer := s.platform.exports.answer Config.freeExport k

/-- R38: the answer to the direction write `k` direction writes from now. -/
def State.dirAnswer (s : State) (k : Nat) : WriteAnswer := s.platform.dirs.answer Config.freeDir k

/-- R39: the answer to the level write `k` level writes from now. -/
def State.writeAnswer (s : State) (k : Nat) : WriteAnswer := s.platform.writes.answer Config.freeWrite k

/-- The feeds of the lines after some probes of each line. -/
def probesAfter (p : Lines (Feed ProbeAnswer)) (n : Lines Nat) : Lines (Feed ProbeAnswer) :=
  { clk := p.clk.after n.clk, update := p.update.after n.update, data := p.data.after n.data, reset := p.reset.after n.reset }

/-- The oracle after some probes of each line and some accesses of each other kind. -/
def Platform.after (p : Platform) (probes : Lines Nat) (exports dirs writes : Nat) : Platform :=
  { probes := probesAfter p.probes probes
    exports := p.exports.after exports
    dirs := p.dirs.after dirs
    writes := p.writes.after writes }

/-- The state after some probes of each line and some accesses of each other kind have been answered. -/
def State.answered (s : State) (probes : Lines Nat) (exports dirs writes : Nat) : State :=
  { s with platform := s.platform.after probes exports dirs writes }

/-! ## The access primitives: the event first, then the answer -/

/-- R36: `PinProbe(i)`, a read: no event, no change of the block's state. -/
def pinProbe (i : Line) (s : State) : ProbeAnswer × State := (s.probeAnswer i 0, s.answered (countOf i 1) 0 0 0)

/-- R37: `PinExport(i)`. -/
def pinExport (i : Line) (s : State) : ExportAnswer × State :=
  (s.exportAnswer 0, (s.emit (.exportReq i)).answered (linesAll 0) 1 0 0)

/-- R38: `PinSetDir(i)`. -/
def pinSetDir (i : Line) (s : State) : WriteAnswer × State := (s.dirAnswer 0, (s.emit (.setDir i)).answered (linesAll 0) 0 1 0)

/-- R39: `PinWrite(i, b)`. -/
def pinWrite (i : Line) (b : Bool) (s : State) : WriteAnswer × State :=
  (s.writeAnswer 0, (s.emit (.write i b)).answered (linesAll 0) 0 0 1)

/-- R40: `Delay(t)` makes no access, appends no event and changes no state (D29). -/
def delay (_t : Nat) (s : State) : State := s

/-! ## Outcomes of an operation (R17) -/

/-- How an operation ends: completed, raising an exception, at an access that hangs, or refused. -/
inductive Flow where
  | ok (s : State)
  | raise (x : Exn) (s : State)
  | hang (s : State)
  | refuse (r : RefusalReason) (s : State)
deriving DecidableEq, Repr

/-- R17: whatever ends an operation ends every operation that contains it. -/
def Flow.andThen (m : Flow) (k : State → Flow) : Flow :=
  match m with
  | .ok s => k s
  | .raise x s => .raise x s
  | .hang s => .hang s
  | .refuse r s => .refuse r s

/-- The state a command leaves: R97 where it raises, R99 where it hangs, R17 where it is refused. -/
def Flow.finish : Flow → State
  | .ok s => s
  | .raise x s => s.takeException x
  | .hang s => s.hang
  | .refuse r s => s.refuse r

/-- The outcome of a command given by the host: always a next state. -/
def Flow.outcome (m : Flow) : Host.Outcome State Fault Refusal := .next m.finish

/-- An operation done on each element of a list, in order (R83, R81). -/
def forEach {α : Type} (op : α → State → Flow) : List α → State → Flow
  | [], s => .ok s
  | a :: rest, s => (op a s).andThen (forEach op rest)

/-! ## Admission -/

/-- R110 `ValidConfig` with R13: distinct lines, at least one export attempt, an exit status different from 0 and 1.
DEDUCED (notes/assumptions/6.md): the two latter are refused as the first is (R11). -/
def configValid (c : Config) : Bool :=
  decide (c.pins.clk ≠ c.pins.update) && decide (c.pins.clk ≠ c.pins.data) && decide (c.pins.clk ≠ c.pins.reset) &&
  decide (c.pins.update ≠ c.pins.data) && decide (c.pins.update ≠ c.pins.reset) && decide (c.pins.data ≠ c.pins.reset) &&
  decide (1 ≤ c.exportMaxAttempts) && decide (c.exitFreqMax ≠ 0) && decide (c.exitFreqMax ≠ 1)

/-- R11, R82: the refusal an operation meets before any access and before its own checks, if any: a configuration that may
not be (R11), a session state that does not admit it (R82). -/
def admission (op : Opcode) (s : State) : Option RefusalReason :=
  if !configValid s.cfg then some .badConfig
  else if !admits op s.sess then some .badState
  else none

/-- R96 (2) and (3): an operation is admitted, then its own checks are made in order (the reason of the first that fails is
the refusal), then it runs. -/
def admitted (op : Opcode) (checks : State → Option RefusalReason) (body : State → Flow) (s : State) : Flow :=
  match admission op s with
  | some r => .refuse r s
  | none =>
    match checks s with
    | some r => .refuse r s
    | none => body s

/-- An operation with no check of its own. -/
def noChecks (_s : State) : Option RefusalReason := none

/-- R75, R76: the line is an exported output. -/
def lineCheck (i : Line) (s : State) : Option RefusalReason := if s.lineIsOutput i then none else some .lineNotOutput

/-- R77: DATA and CLK are both exported outputs, checked up front. -/
def serialCheck (s : State) : Option RefusalReason :=
  if s.lineIsOutput .data && s.lineIsOutput .clk then none else some .lineNotOutput

/-- R67 (a): `phase <= 31`. -/
def phaseCheck (phase : Nat) (_s : State) : Option RefusalReason := if phase ≤ 31 then none else some .phaseRange

/-- R81: `f <= P_FMAX`, then `phase <= 31`, both preconditions of LOAD_FREQUENCY (R67). Which of two failing ones names the
refusal is a DESIGN CHOICE (notes/assumptions/7.md). -/
def loadCheck (f phase : Nat) (s : State) : Option RefusalReason :=
  if f ≤ Config.fmax then phaseCheck phase s else some .freqRange

/-! ## The platform's view of the lines -/

/-- R18: the platform line a logical line is. -/
def platformLine (c : Config) (i : Line) : Nat := linesGet c.pins i

/-- R26: the line an event accesses. -/
def Event.line : Event → Line
  | .exportReq i => i
  | .setDir i => i
  | .write i _ => i

/-- R34: the accesses as the platform's control surface sees them: the line number and what is accessed. -/
def platformTrace (s : State) : List (Nat × Event) := s.trace.map fun e => (platformLine s.cfg e.line, e)

end Sys2Proof.Machine
end

