-- ==== Sys2Proof/Machine/PinDriver.lean ====
section
/-! DEFINITION. The pin driver: ENSURE_EXPORTED, SET_DIRECTION, WRITE_LEVEL, PULSE (40_pin_driver.md R73 to R76). -/

namespace Sys2Proof.Machine

/-- R73: the loop of ENSURE_EXPORTED with `left` export requests still allowed. -/
def exportLoop (i : Line) : Nat → State → Flow
  | 0, s =>
    match pinProbe i s with
    | (.present, s1) => .ok (s1.setExported i)
    | (.fail e, s1) => .raise (.io (.os e)) s1
    | (.hang, s1) => .hang s1
    | (.absent, s1) => .raise (.io .exportExhausted) s1
  | left + 1, s =>
    match pinProbe i s with
    | (.present, s1) => .ok (s1.setExported i)
    | (.fail e, s1) => .raise (.io (.os e)) s1
    | (.hang, s1) => .hang s1
    | (.absent, s1) =>
      match pinExport i s1 with
      | (.fail e, s2) => .raise (.io (.os e)) s2
      | (.hang, s2) => .hang s2
      | (.ok, s2) => exportLoop i left (delay s2.cfg.exportRetryDelay s2)
      | (.already, s2) => exportLoop i left (delay s2.cfg.exportRetryDelay s2)

/-- R73: ENSURE_EXPORTED. -/
def ensureExported (i : Line) : State → Flow :=
  admitted .ensureExported noChecks fun s => exportLoop i s.cfg.exportMaxAttempts s

/-- R74: the direction write of SET_DIRECTION and what its answer leaves. -/
def writeDirection (i : Line) (s : State) : Flow :=
  match pinSetDir i s with
  | (.ok, s1) => .ok (s1.setDir i .out)
  | (.fail e, s1) => .raise (.io (.os e)) (s1.setDir i .unknown)
  | (.hang, s1) => .hang s1

/-- R74: SET_DIRECTION. -/
def setDirection (i : Line) : State → Flow :=
  admitted .setDirection noChecks fun s => (ensureExported i s).andThen (writeDirection i)

/-- R75: the level write of WRITE_LEVEL and what its answer leaves. -/
def driveLevel (i : Line) (b : Bool) (s : State) : Flow :=
  match pinWrite i b s with
  | (.ok, s1) => .ok (s1.setLevel i (some b))
  | (.fail e, s1) => .raise (.io (.os e)) (s1.setLevel i none)
  | (.hang, s1) => .hang s1

/-- R75: WRITE_LEVEL. -/
def writeLevel (i : Line) (b : Bool) : State → Flow :=
  admitted .writeLevel (lineCheck i) (driveLevel i b)

/-- R76: PULSE, high and then low. -/
def pulse (i : Line) : State → Flow :=
  admitted .pulse (lineCheck i) fun s => (writeLevel i true s).andThen (writeLevel i false)

/-- The command ENSURE_EXPORTED (R73). -/
def execEnsureExported (i : Line) (s : State) : Host.Outcome State Fault Refusal := (ensureExported i s).outcome

/-- The command SET_DIRECTION (R74). -/
def execSetDirection (i : Line) (s : State) : Host.Outcome State Fault Refusal := (setDirection i s).outcome

/-- The command WRITE_LEVEL (R75). -/
def execWriteLevel (i : Line) (b : Bool) (s : State) : Host.Outcome State Fault Refusal := (writeLevel i b s).outcome

/-- The command PULSE (R76). -/
def execPulse (i : Line) (s : State) : Host.Outcome State Fault Refusal := (pulse i s).outcome

end Sys2Proof.Machine
end

