-- ==== Sys2Proof/Machine/Serializer.lean ====
section
/-! DEFINITION. The bit-serial framing engine: SEND_BYTE (41_serializer.md R77). -/

namespace Sys2Proof.Machine

/-- R77: one step of the serializer: the bit on DATA, then a pulse of CLK. -/
def sendBit (b : Bool) (s : State) : Flow := (writeLevel .data b s).andThen (pulse .clk)

/-- R77: the steps of SEND_BYTE that are left, on the shift value `v`: the level is `v[0]`, then `v` is shifted right. -/
def sendBits : Nat → Byte → State → Flow
  | 0, _, s => .ok s
  | k + 1, v, s => (sendBit (v.getLsbD 0) s).andThen (sendBits k (v >>> 1))

/-- R77: SEND_BYTE. -/
def sendByte (value : Byte) : State → Flow := admitted .sendByte serialCheck (sendBits 8 value)

/-- The command SEND_BYTE (R77). -/
def execSendByte (value : Byte) (s : State) : Host.Outcome State Fault Refusal := (sendByte value s).outcome

end Sys2Proof.Machine
end

