-- ==== Sys2Proof/Machine/Encoder.lean ====
section
/-! DEFINITION. The frequency and phase encoder's operation LOAD_FREQUENCY (42_encoder.md R81). -/

namespace Sys2Proof.Machine

/-- R81: the five bytes in order, then one pulse of UPDATE. -/
def sendFrame (frame : List Byte) (s : State) : Flow := (forEach sendByte frame s).andThen (pulse .update)

/-- R81: LOAD_FREQUENCY. -/
def loadFrequency (f phase : Nat) (powerDown : Bool) : State → Flow :=
  admitted .loadFrequency (loadCheck f phase) (sendFrame (frameOf f phase powerDown))

/-- The command LOAD_FREQUENCY (R81). -/
def execLoadFrequency (f phase : Nat) (powerDown : Bool) (s : State) : Host.Outcome State Fault Refusal :=
  (loadFrequency f phase powerDown s).outcome

end Sys2Proof.Machine
end

