-- ==== Sys2Proof/Machine/Session.lean ====
section
/-! DEFINITION. The bootstrap INITIALIZE and the host commands SET_FREQ and SHUTDOWN (43_session.md R83, R86, R87). -/

namespace Sys2Proof.Machine

/-- R83: one line exported and made an output (SET_DIRECTION calls ENSURE_EXPORTED again). -/
def prepareLine (i : Line) (s : State) : Flow := (ensureExported i s).andThen (setDirection i)

/-- R83: a line driven low. -/
def driveLow (i : Line) : State → Flow := writeLevel i false

/-- R83: the steps of the bootstrap, in their fixed order. -/
def bootstrap (s : State) : Flow :=
  (forEach prepareLine allLines s).andThen fun s1 =>
  (forEach driveLow Config.initLowOrder s1).andThen fun s2 =>
  (forEach pulse [.reset, .clk, .update] s2).andThen fun s3 =>
  .ok s3.boot

/-- R83: INITIALIZE. -/
def initializeLines : State → Flow := admitted .initializeLines noChecks bootstrap

/-- R86, R87: bootstrap, one frame, then halt with exit 0. -/
def bootAndLoad (f phase : Nat) (powerDown : Bool) (s : State) : Flow :=
  (initializeLines s).andThen fun s1 =>
  (loadFrequency f phase powerDown s1).andThen fun s2 =>
  .ok s2.endSession

/-- R86: SET_FREQ. The frequency check comes before any access. -/
def setFreq (f phase : Nat) : State → Flow :=
  admitted .setFreq (phaseCheck phase) fun s =>
    if f > Config.fmax then .raise .freqMax s else bootAndLoad f phase false s

/-- R87: SHUTDOWN. -/
def shutdown : State → Flow := admitted .shutdown noChecks (bootAndLoad 0 0 true)

/-- The command INITIALIZE (R83). -/
def execInitializeLines (s : State) : Host.Outcome State Fault Refusal := (initializeLines s).outcome

/-- The command SET_FREQ (R86). -/
def execSetFreq (f phase : Nat) (s : State) : Host.Outcome State Fault Refusal := (setFreq f phase s).outcome

/-- The command SHUTDOWN (R87). -/
def execShutdown (s : State) : Host.Outcome State Fault Refusal := (shutdown s).outcome

end Sys2Proof.Machine
end

