-- ==== Sys2Proof/Machine/Dispatch.lean ====
section
/-! DEFINITION. One arm per command (30_encoding.md R64). -/

namespace Sys2Proof.Machine

/-- The meaning of a command in a state. -/
def exec (i : Instr) (s : State) : Host.Outcome State Fault Refusal :=
  match i with
  | .ensureExported l => Sys2Proof.Machine.execEnsureExported l s
  | .setDirection l => Sys2Proof.Machine.execSetDirection l s
  | .writeLevel l b => Sys2Proof.Machine.execWriteLevel l b s
  | .pulse l => Sys2Proof.Machine.execPulse l s
  | .sendByte v => Sys2Proof.Machine.execSendByte v s
  | .loadFrequency f p d => Sys2Proof.Machine.execLoadFrequency f p d s
  | .initializeLines => Sys2Proof.Machine.execInitializeLines s
  | .setFreq f p => Sys2Proof.Machine.execSetFreq f p s
  | .shutdown => Sys2Proof.Machine.execShutdown s

end Sys2Proof.Machine
end

