-- ==== Sys2Proof/Machine/Interface.lean ====
section
/-! DEFINITION. What the host hands over: a command word (30_encoding.md R65, R66) or a command line of the source's
external interface (R70, R72), read as a command or refused by reason. -/

namespace Sys2Proof.Machine

/-- R70: the phase when the argument is absent. -/
def defaultPhase : Nat := 0

/-- R72: the command a command line asks for. `none` for what is no command of the block: help, a command line outside the
documented forms, a number that fits no command word (92_eei_decisions.md D22, D35). -/
def commandOfLine : CommandLine → Option Instr
  | .noArguments => none
  | .shutdownFlag => some .shutdown
  | .frequency hz phase =>
    let i := Instr.setFreq hz (phase.getD defaultPhase)
    if i.wellFormed then some i else none
  | .unparsed => none

/-- R66, R72: the command the host's input stands for, or the reason it is refused. -/
def readInput : HostInput → Except RefusalReason Instr
  | .word w =>
    match decode w with
    | .ok i => .ok i
    | .error _ => .error .illegalWord
  | .line c =>
    match commandOfLine c with
    | some i => .ok i
    | none => .error .helpOrUnparsed

/-- R85 (a): the state once the host's next input has been taken. -/
def State.withInputs (s : State) (l : List HostInput) : State := { s with inputs := l }

/-- The input of a word of `nbits` bits numbered as spec/opcode_table.json numbers it. -/
def inputOfTableWord (nbits w : Nat) : HostInput := .word (BitVec.ofNat 64 (w % 2 ^ nbits))

end Sys2Proof.Machine
end

