-- ==== Sys2Proof/Machine/Step.lean ====
section
/-! DEFINITION. One step: the host's next input is taken and run (43_session.md R84, R85, 60_exceptions.md R96, R99). -/

namespace Sys2Proof.Machine

/-- One step is one input of the host. A stuck block has no further step (R99); a run whose list is done makes none (R84); an
input that spells no command is refused (R66, R72); any other is executed. -/
def step (s : State) : Host.Outcome State Fault Refusal :=
  if s.stuck then .fault .stuck
  else
    match s.inputs with
    | [] => .refused .noCommand
    | input :: rest =>
      match readInput input with
      | .ok i => exec i (s.withInputs rest)
      | .error r => .next ((s.withInputs rest).refuse r)

/-- The state with a command word as the host's next input, before the inputs already there (R84): the block has no program
memory (R28), so a program is the list of words the host gives (notes/assumptions/5.md). -/
def State.withFetchWord (s : State) (nbits w : Nat) : State := s.withInputs (inputOfTableWord nbits w :: s.inputs)

end Sys2Proof.Machine
end

