-- ==== Sys2Proof/Machine/Assembler.lean ====
section
/-! DEFINITION. The assembler syntax of 30_encoding.md R69 and its pseudo-instruction R70, on one line of text given as a
list of characters. What R69 leaves open of comments, spacing, letter case and range is a DESIGN CHOICE (notes/assumptions/11.md). -/

namespace Sys2Proof.Machine

/-- The characters before and after the first `c`. -/
def splitAtChar (c : Char) : List Char → List Char × Option (List Char)
  | [] => ([], none)
  | x :: rest =>
    if x = c then ([], some rest)
    else
      let (before, after) := splitAtChar c rest
      (x :: before, after)

/-- The pieces of a text between the separators `c`. -/
def splitOnChar (c : Char) : List Char → List (List Char)
  | [] => [[]]
  | x :: rest =>
    if x = c then [] :: splitOnChar c rest
    else
      match splitOnChar c rest with
      | [] => [[x]]
      | piece :: pieces => (x :: piece) :: pieces

/-- A text without the spaces around it. -/
def trimSpaces (t : List Char) : List Char := ((t.dropWhile (· == ' ')).reverse.dropWhile (· == ' ')).reverse

/-- The value of a decimal digit. -/
def decimalDigit (c : Char) : Option Nat :=
  if '0'.toNat ≤ c.toNat ∧ c.toNat ≤ '9'.toNat then some (c.toNat - '0'.toNat) else none

/-- The value of a hexadecimal digit, in either case. -/
def hexDigit (c : Char) : Option Nat :=
  match decimalDigit c with
  | some d => some d
  | none =>
    if 'a'.toNat ≤ c.toNat ∧ c.toNat ≤ 'f'.toNat then some (c.toNat - 'a'.toNat + 10)
    else if 'A'.toNat ≤ c.toNat ∧ c.toNat ≤ 'F'.toNat then some (c.toNat - 'A'.toNat + 10)
    else none

/-- The number a list of digits spells after `acc`, most significant digit first. -/
def digitsValue (base : Nat) (digit : Char → Option Nat) : Nat → List Char → Option Nat
  | acc, [] => some acc
  | acc, c :: rest =>
    match digit c with
    | some d => digitsValue base digit (acc * base + d) rest
    | none => none

/-- R69: "Numbers are decimal, or hexadecimal with `0x`". -/
def asmNumber (t : List Char) : Option Nat :=
  match t with
  | [] => none
  | '0' :: 'x' :: rest => if rest.isEmpty then none else digitsValue 16 hexDigit 0 rest
  | _ => digitsValue 10 decimalDigit 0 t

/-- R69: the names of the lines. -/
def asmLine (t : List Char) : Option Line :=
  if t = ['c', 'l', 'k'] then some .clk
  else if t = ['u', 'p', 'd', 'a', 't', 'e'] then some .update
  else if t = ['d', 'a', 't', 'a'] then some .data
  else if t = ['r', 'e', 's', 'e', 't'] then some .reset
  else none

/-- R69: `<0|1>`. -/
def asmBit (t : List Char) : Option Bool :=
  match asmNumber t with
  | some 0 => some false
  | some 1 => some true
  | _ => none

/-- R69: `<0..255>`. -/
def asmByte (t : List Char) : Option Byte :=
  match asmNumber t with
  | some n => if n < 256 then some (BitVec.ofNat 8 n) else none
  | none => none

/-- R69: the mnemonics, "lower-case". -/
def opcodeMnemonic : Opcode → List Char
  | .ensureExported => ['e', 'n', 's', 'u', 'r', 'e', '_', 'e', 'x', 'p', 'o', 'r', 't', 'e', 'd']
  | .setDirection => ['s', 'e', 't', '_', 'd', 'i', 'r', 'e', 'c', 't', 'i', 'o', 'n']
  | .writeLevel => ['w', 'r', 'i', 't', 'e', '_', 'l', 'e', 'v', 'e', 'l']
  | .pulse => ['p', 'u', 'l', 's', 'e']
  | .sendByte => ['s', 'e', 'n', 'd', '_', 'b', 'y', 't', 'e']
  | .loadFrequency => ['l', 'o', 'a', 'd', '_', 'f', 'r', 'e', 'q', 'u', 'e', 'n', 'c', 'y']
  | .initializeLines => ['i', 'n', 'i', 't', 'i', 'a', 'l', 'i', 'z', 'e']
  | .setFreq => ['s', 'e', 't', '_', 'f', 'r', 'e', 'q']
  | .shutdown => ['s', 'h', 'u', 't', 'd', 'o', 'w', 'n']

/-- R69, R70: the command of a mnemonic and its operands. `set_freq <f>` is `set_freq <f>, 0` (R70). -/
def asmCommand (op : Opcode) (operands : List (List Char)) : Option Instr :=
  match op, operands with
  | .ensureExported, [l] => (asmLine l).map .ensureExported
  | .setDirection, [l, d] => if d = ['o', 'u', 't'] then (asmLine l).map .setDirection else none
  | .writeLevel, [l, b] => (asmLine l).bind fun i => (asmBit b).map (.writeLevel i)
  | .pulse, [l] => (asmLine l).map .pulse
  | .sendByte, [v] => (asmByte v).map .sendByte
  | .loadFrequency, [f, p, d] =>
    (asmNumber f).bind fun f => (asmNumber p).bind fun p => (asmBit d).map (.loadFrequency f p)
  | .initializeLines, [] => some .initializeLines
  | .setFreq, [f] => (asmNumber f).map fun f => .setFreq f defaultPhase
  | .setFreq, [f, p] => (asmNumber f).bind fun f => (asmNumber p).map (.setFreq f)
  | .shutdown, [] => some .shutdown
  | _, _ => none

/-- R69: the operands of a line, "separated by commas". -/
def asmOperands (t : List Char) : List (List Char) :=
  if (trimSpaces t).isEmpty then [] else (splitOnChar ',' t).map trimSpaces

/-- A line of text without its comment, which runs from the first `;` to the end. DESIGN CHOICE (notes/assumptions/11.md): R69
is silent on comments, and the programs P1 to P6 of 95_test_vectors.md print each command with one. -/
def dropComment (text : List Char) : List Char := (splitAtChar ';' text).1

/-- R69: the command a line of assembly spells, after its comment and the spaces before it are dropped. -/
def asmParse (text : List Char) : Option Instr :=
  let (name, operands) := splitAtChar ' ' ((dropComment text).dropWhile (· == ' '))
  (opcodeTable.find? fun op => opcodeMnemonic op == name).bind fun op => asmCommand op (asmOperands (operands.getD []))

/-- R69: "Each assembles to the command word of rule R64 with the operands in their fields"; operands that fit no field
assemble to nothing. -/
def assemble (text : List Char) : Option CommandWord :=
  (asmParse text).bind fun i => if i.wellFormed then some (encode i) else none

end Sys2Proof.Machine
end

