-- ==== Sys2Proof/Machine/Premises.lean ====
section
/-! DEFINITION. The named premises of claims: the oracle premises of 20_memory.md R42 and the launch premises of
70_reset_and_hazards.md R110. `Healthy` and `HealthyAfterExport` are those of R42, of every access there will
ever be; the others are made of the accesses a command can make, so a claim under them says more (notes/assumptions/2.md). -/

namespace Sys2Proof.Machine

/-- The next `n` probes of every line answer `PRESENT`. -/
def State.NextProbesPresent (s : State) (n : Nat) : Prop := ∀ i, ∀ k < n, s.probeAnswer i k = .present

/-- The next `n` direction writes answer `OK`. -/
def State.NextDirsOk (s : State) (n : Nat) : Prop := ∀ k < n, s.dirAnswer k = .ok

/-- The next `n` level writes answer `OK`. -/
def State.NextWritesOk (s : State) (n : Nat) : Prop := ∀ k < n, s.writeAnswer k = .ok

/-- The next `n` export requests answer `OK` or `ALREADY`. -/
def State.NextExportsOk (s : State) (n : Nat) : Prop := ∀ k < n, s.exportAnswer k = .ok ∨ s.exportAnswer k = .already

/-- R42 `Healthy`, for the next accesses: the probes of each line, the direction writes and the level writes. -/
def State.HealthyFor (s : State) (probes dirs writes : Nat) : Prop :=
  s.NextProbesPresent probes ∧ s.NextDirsOk dirs ∧ s.NextWritesOk writes

/-- R42 `HealthyAfterExport`, for one call of ENSURE_EXPORTED: the next `m` probes of the line answer `ABSENT`, each followed
by a good export request, and the probe after them answers `PRESENT`. -/
def State.PresentAfter (s : State) (i : Line) (m : Nat) : Prop :=
  (∀ k < m, s.probeAnswer i k = .absent) ∧ s.NextExportsOk m ∧ s.probeAnswer i m = .present

/-- R42 `HealthyAfterExport`, for the accesses of a bootstrap: each line is absent at its next probes, as many as `m` says,
and present at the two after them (INITIALIZE probes a line once more when it sets its direction, R83), and the export
requests that follow the absent probes are good. -/
def State.PresentAfterEach (s : State) (m : Lines Nat) : Prop :=
  (∀ i, (∀ k < linesGet m i, s.probeAnswer i k = .absent) ∧
    s.probeAnswer i (linesGet m i) = .present ∧ s.probeAnswer i (linesGet m i + 1) = .present) ∧
  s.NextExportsOk (linesSum m)

/-- Every access that is no probe gets a good answer, however many there are (R42). -/
def State.GoodAccesses (s : State) : Prop :=
  ∀ k, (s.exportAnswer k = .ok ∨ s.exportAnswer k = .already) ∧ s.dirAnswer k = .ok ∧ s.writeAnswer k = .ok

/-- The probes of every line answer `ABSENT` as many times as `m` says and `PRESENT` ever after. -/
def State.AbsentFirst (s : State) (m : Lines Nat) : Prop :=
  ∀ i k, s.probeAnswer i k = if k < linesGet m i then .absent else .present

/-- R42 `Healthy`. -/
def State.Healthy (s : State) : Prop := s.AbsentFirst (linesAll 0) ∧ s.GoodAccesses

/-- R42 `HealthyAfterExport(n)`, from a state in which no export request has been made. An `ABSENT` probe of a line is
followed by one export request of it (R73), so a line whose first `m` probes answer `ABSENT`, `1 <= m <= n`, is absent before
its first request and after `m - 1` of its requests, and present after that, whichever commands probe it. -/
def State.HealthyAfterExport (s : State) (n : Nat) : Prop :=
  n ≤ s.cfg.exportMaxAttempts ∧
  (∃ m : Lines Nat, (∀ i, 1 ≤ linesGet m i ∧ linesGet m i ≤ n) ∧ s.AbsentFirst m) ∧
  s.GoodAccesses

/-- R110 `CleanLaunch`: the block's state is its launch state. -/
def State.CleanLaunch (s : State) : Prop := s = State.launch s.cfg s.platform s.inputs

/-- Every line is an exported output (R113). -/
def State.AllOutputs (s : State) : Prop := ∀ i, s.lineIsOutput i = true

end Sys2Proof.Machine
end

