-- ==== Sys2Proof/Machine/Receiver.lean ====
section
/-! DEFINITION. The receiver view `RX`: what the DDS chip sees of the pins, a function of the trace (20_memory.md R55). -/

namespace Sys2Proof.Machine

/-- R55: what the receiver gathers between two rising edges of UPDATE. A bit is `none` where DATA's level was unknown. -/
structure Segment where
  bits      : List (Option Bool)
  reset     : Bool
  uncertain : Bool
deriving DecidableEq, Repr

/-- R55: `{bits: [], reset: false, uncertain: false}`. -/
def Segment.empty : Segment := { bits := [], reset := false, uncertain := false }

/-- R55: the variables of `RX`: the known levels, the completed segments, the open one. -/
structure Receiver where
  lvl  : Lines (Option Bool)
  segs : List Segment
  cur  : Segment
deriving DecidableEq, Repr

/-- R55: the receiver of a trace that starts at launch. -/
def Receiver.start : Receiver :=
  { lvl := { clk := none, update := none, data := none, reset := none }, segs := [], cur := .empty }

/-- R55: a segment marked uncertain. -/
def Segment.markUncertain (g : Segment) : Segment := { g with uncertain := true }

/-- R55: a rising edge of a line, its level being known. -/
def Receiver.risingEdge (r : Receiver) (i : Line) : Receiver :=
  match i with
  | .clk =>
    { r with cur := { r.cur with bits := r.cur.bits ++ [r.lvl.data], uncertain := r.cur.uncertain || r.lvl.data.isNone } }
  | .reset => { r with cur := { r.cur with reset := true } }
  | .update => { r with segs := r.segs ++ [r.cur], cur := .empty }
  | .data => r

/-- R55: a write of 1, before the level is taken over. -/
def Receiver.raised (r : Receiver) (i : Line) : Receiver :=
  match linesGet r.lvl i with
  | none => { r with cur := r.cur.markUncertain }
  | some false => r.risingEdge i
  | some true => r

/-- R55: the level of a line taken over. -/
def Receiver.setLvl (r : Receiver) (i : Line) (l : Option Bool) : Receiver := { r with lvl := linesSet r.lvl i l }

/-- R55: one event. -/
def Receiver.see (r : Receiver) : Event → Receiver
  | .exportReq _ => r
  | .setDir i => r.setLvl i none
  | .write i true => (r.raised i).setLvl i (some true)
  | .write i false => r.setLvl i (some false)

/-- R55: the receiver after a trace. -/
def Receiver.seeAll (r : Receiver) (t : List Event) : Receiver := t.foldl Receiver.see r

/-- R55: `RX(trace)`, for a trace that starts at launch. -/
def receiverOf (t : List Event) : Receiver := Receiver.start.seeAll t

/-- R55 (DEDUCED for a probe that fails, notes/assumptions/13.md): the receiver view of a run: where it ended with `E_IO` or is
stuck, the last event is left out and the open segment is marked uncertain. -/
def receiverView (s : State) : Receiver :=
  if s.cause = .eIo ∨ s.stuck = true then
    let r := receiverOf s.trace.dropLast
    { r with cur := r.cur.markUncertain }
  else receiverOf s.trace

/-- R44: the bits of a control word in the order sent, `W[0]` first, as a receiver that knows DATA takes them. -/
def wordBits (w : ControlWord) : List (Option Bool) := (List.range 40).map fun n => some (w.getLsbD n)

/-- R55, R58: the segment that holds exactly one command frame. -/
def frameSegment (w : ControlWord) : Segment := { bits := wordBits w, reset := false, uncertain := false }

/-- R83, R113: the segment of a bootstrap: one bit, 0, after the reset. -/
def bootstrapSegment : Segment := { bits := [some false], reset := true, uncertain := false }

end Sys2Proof.Machine
end

