-- ==== Sys2Proof/Machine/Traces.lean ====
section
/-! DEFINITION. The event lists the rules print: what each operation appends to `trace` where no access fails. -/

namespace Sys2Proof.Machine

/-- R76: the two writes of a pulse. -/
def pulseEvents (i : Line) : List Event := [.write i true, .write i false]

/-- R77: the three writes of one bit. -/
def bitEvents (b : Bool) : List Event := .write .data b :: pulseEvents .clk

/-- R77: the 24 events of a byte, bit 0 first. -/
def byteEvents (v : Byte) : List Event := (List.range 8).flatMap fun k => bitEvents (v.getLsbD k)

/-- R81: the 122 events of a frame: five bytes, then the pulse of UPDATE. -/
def frameEvents (frame : List Byte) : List Event := frame.flatMap byteEvents ++ pulseEvents .update

/-- R83: the ten writes of the bootstrap. -/
def bootstrapWrites : List Event :=
  Config.initLowOrder.map (fun i => Event.write i false) ++ pulseEvents .reset ++ pulseEvents .clk ++ pulseEvents .update

/-- R83: the events of the bootstrap where every line is present at its first probe. -/
def bootstrapEvents : List Event := allLines.map Event.setDir ++ bootstrapWrites

/-- R83: the events of the bootstrap where every line is present after one export request. -/
def bootstrapExportEvents : List Event :=
  allLines.flatMap (fun i => [Event.exportReq i, Event.setDir i]) ++ bootstrapWrites

/-- R26: an export request. -/
def Event.isExport : Event → Bool
  | .exportReq _ => true
  | .setDir _ => false
  | .write _ _ => false

/-- R89: the direction and level writes of a command, in their fixed order; only export requests come between them. -/
def plannedEvents : Instr → List Event
  | .ensureExported _ => []
  | .setDirection i => [.setDir i]
  | .writeLevel i b => [.write i b]
  | .pulse i => pulseEvents i
  | .sendByte v => byteEvents v
  | .loadFrequency f phase d => frameEvents (frameOf f phase d)
  | .initializeLines => bootstrapEvents
  | .setFreq f phase => bootstrapEvents ++ frameEvents (frameOf f phase false)
  | .shutdown => bootstrapEvents ++ frameEvents (frameOf 0 0 true)

/-- R75: the lines once the writes among some events have reached them: each written level is the line's level. -/
def drivenPins (p : Lines Pin) : List Event → Lines Pin
  | [] => p
  | .write i b :: rest => drivenPins (linesSet p i { linesGet p i with level := some b }) rest
  | .exportReq _ :: rest => drivenPins p rest
  | .setDir _ :: rest => drivenPins p rest

end Sys2Proof.Machine
end

