-- ==== Sys2Proof/Safety.lean ====
section
/-! DEFINITION. The words claims about runs use: when a run is final, when it says something of the block (43_session.md
R84), and the invariant that ties the block's state together. -/

namespace Sys2Proof.Machine

/-- R84: a run is final when the session has halted or the host's list is done; a stuck run is not. -/
def State.final (s : State) : Bool := !s.stuck && (s.sess == .halted || s.inputs.isEmpty)

/-- R27, R84: "A run with `refused = 1` says nothing of the block". -/
def State.saysOfBlock (s : State) : Bool := !s.refused

/-- The session goes on: no access hangs and the session has not halted. -/
def State.running (s : State) : Bool := !s.stuck && s.sess != .halted

/-- R84: commands given one after the other, each only while the session goes on. -/
def execAll : List Instr → State → State
  | [], s => s
  | i :: rest, s =>
    if s.running then
      match exec i s with
      | .next t => execAll rest t
      | .fault _ => s
      | .refused _ => s
    else s

/-- What a composite command writes after its parts, where the session still goes on (R83, R86, R87). -/
def State.ifRunning (s : State) (k : State → State) : State := if s.running then k s else s

/-- R89: the most events a command can append, `n` being the most export requests for a line. -/
def eventBound (n : Nat) : Instr → Nat
  | .ensureExported _ => n
  | .setDirection _ => n + 1
  | .writeLevel _ _ => 1
  | .pulse _ => 2
  | .sendByte _ => 24
  | .loadFrequency _ _ _ => 122
  | .initializeLines => 8 * n + 14
  | .setFreq _ _ => 8 * n + 136
  | .shutdown => 8 * n + 136

/-- R19 to R21, R113: the records of the lines agree with one another and with the session state. -/
def State.LinesCoherent (s : State) : Prop :=
  (∀ i, (s.pin i).dir = .out → (s.pin i).exported = true) ∧
  (∀ i, (s.pin i).level ≠ none → (s.pin i).dir = .out) ∧
  (s.sess = .booted → s.AllOutputs)

/-- R22 to R25, R27, R99: the status fields agree with one another. -/
def State.StatusCoherent (s : State) : Prop :=
  (s.sess = .halted ↔ s.exit ≠ none) ∧
  (s.exit ≠ none → s.exit = some (exitStatus s.cfg s.cause)) ∧
  (s.cause ≠ .none → s.sess = .halted) ∧
  (s.cause = .eIo ↔ s.errinfo ≠ none) ∧
  (s.stuck = true → s.sess ≠ .halted) ∧
  (s.refused = true ↔ s.refusal ≠ none)

/-- R21, R55: where no access has failed or hung, the receiver knows the levels the block last drove. -/
def State.LevelsCoherent (s : State) : Prop :=
  s.stuck = false → s.cause ≠ .eIo → ∀ i, linesGet (receiverOf s.trace).lvl i = (s.pin i).level

/-- The invariant every step keeps. -/
def State.Coherent (s : State) : Prop := s.LinesCoherent ∧ s.StatusCoherent ∧ s.LevelsCoherent

/-- R42: the platform serves the block well from here on: each line is absent for at most as many probes as export requests
are allowed and present ever after, every other access gets a good answer, and no access has failed or hung so far. -/
def State.WellServed (s : State) : Prop :=
  (∃ m : Lines Nat, (∀ i, linesGet m i ≤ s.cfg.exportMaxAttempts) ∧ s.AbsentFirst m) ∧ s.GoodAccesses ∧
  s.cause ≠ .eIo ∧ s.stuck = false

/-- What no step takes back: the configuration stays (R31), the trace only grows (R26), a line once seen present stays so
(R19), a cause is never cleared (R23), the end of the session is final (R22), the refusal mark stays (R27). -/
def State.Extends (s t : State) : Prop :=
  t.cfg = s.cfg ∧
  s.trace <+: t.trace ∧
  (∀ i, (s.pin i).exported = true → (t.pin i).exported = true) ∧
  (s.cause ≠ .none → t.cause = s.cause) ∧
  (s.sess = .halted → t.sess = .halted ∧ t.exit = s.exit) ∧
  (s.refused = true → t.refused = true)

end Sys2Proof.Machine
end

