-- ==== Sys2Proof/Certificates/Slice0/Obligations.lean ====
section
/-! DEFINITION. The statements for the provers. Each docstring names the rule of spec/ it formalises. -/

open Sys2Proof Sys2Proof.Machine

/-! ## Encoding -/

/-- 95_test_vectors.md section 2.5: words written out from the field layout of R62, one or more per command. -/
def Obligations.WordsOfTheSpecDecode : Prop :=
  decode 0x0100C00000000000 = .ok (.ensureExported .reset) ∧
  decode 0x0200A00000000000 = .ok (.setDirection .data) ∧
  decode 0x0300200000000000 = .ok (.writeLevel .clk true) ∧
  decode 0x0300800000000000 = .ok (.writeLevel .data false) ∧
  decode 0x0400400000000000 = .ok (.pulse .update) ∧
  decode 0x10A5000000000000 = .ok (.sendByte 0xA5) ∧
  decode 0x2000101F02625A00 = .ok (.loadFrequency 40000000 31 true) ∧
  decode 0x3000000000000000 = .ok .initializeLines ∧
  decode 0x4000000A000F4240 = .ok (.setFreq 1000000 10) ∧
  decode 0x4100000000000000 = .ok .shutdown

/-- R62, R64, R65: decoding the word of a command gives the command back, whatever its operands. -/
def Obligations.DecodeAfterEncode : Prop :=
  ∀ i : Instr, i.wellFormed = true → decode (encode i) = .ok i

/-- R64, R65: each word has one meaning: a word that decodes is the word of its command, whose operands fit their fields. -/
def Obligations.EncodeAfterDecode : Prop :=
  ∀ (w : CommandWord) (i : Instr), decode w = .ok i → encode i = w ∧ i.wellFormed = true

/-- R65, with the fields of R62 and the rows of R64 written out: the row whose `(w & mask) = match` decides the command, the
operands are the fields zero-extended, and no word matches two rows. -/
def Obligations.DecodeFollowsTheTable : Prop :=
  ∀ w : CommandWord,
    (w &&& 0xFFFF3FFFFFFFFFFF = 0x0100000000000000 → decode w = .ok (.ensureExported (Line.ofPin (w.extractLsb' 46 2)))) ∧
    (w &&& 0xFFFF3FFFFFFFFFFF = 0x0200200000000000 → decode w = .ok (.setDirection (Line.ofPin (w.extractLsb' 46 2)))) ∧
    (w &&& 0xFFFF1FFFFFFFFFFF = 0x0300000000000000 →
      decode w = .ok (.writeLevel (Line.ofPin (w.extractLsb' 46 2)) (w.getLsbD 45))) ∧
    (w &&& 0xFFFF3FFFFFFFFFFF = 0x0400000000000000 → decode w = .ok (.pulse (Line.ofPin (w.extractLsb' 46 2)))) ∧
    (w &&& 0xFF00FFFFFFFFFFFF = 0x1000000000000000 → decode w = .ok (.sendByte (w.extractLsb' 48 8))) ∧
    (w &&& 0xFFFFEF0000000000 = 0x2000000000000000 →
      decode w = .ok (.loadFrequency (w.toNat % 2 ^ 32) (w.toNat / 2 ^ 32 % 2 ^ 8) (w.getLsbD 44))) ∧
    (w &&& 0xFFFFFFFFFFFFFFFF = 0x3000000000000000 → decode w = .ok .initializeLines) ∧
    (w &&& 0xFFFFFF0000000000 = 0x4000000000000000 →
      decode w = .ok (.setFreq (w.toNat % 2 ^ 32) (w.toNat / 2 ^ 32 % 2 ^ 8))) ∧
    (w &&& 0xFFFFFFFFFFFFFFFF = 0x4100000000000000 → decode w = .ok .shutdown) ∧
    (∀ op op' : Opcode, op.matchesWord w = true → op'.matchesWord w = true → op = op')

/-- R63: the PIN field's four values name the four lines. -/
def Obligations.PinFieldNamesTheLine : Prop :=
  Line.ofPin 0 = .clk ∧ Line.ofPin 1 = .update ∧ Line.ofPin 2 = .data ∧ Line.ofPin 3 = .reset ∧
  ∀ i : Line, Line.ofPin i.toPin = i ∧ i.toPin.toNat = i.index

/-- R66: an unassigned OPC, a nonzero RSV, a nonzero field the command does not use, and SET_DIRECTION with LVL = 0 match no
row; a word that matches no row spells no command, and a step that takes it writes the refusal mark and nothing else of
the block (`refusal`, the reason, is the model's own record of it, notes/assumptions/3.md). -/
def Obligations.IllegalWordsAreRefused : Prop :=
  ∀ w : CommandWord,
    (∀ op : Opcode, w.extractLsb' 56 8 ≠ op.code → op.matchesWord w = false) ∧
    (w.extractLsb' 40 4 ≠ 0 → ∀ op : Opcode, op.matchesWord w = false) ∧
    (w.extractLsb' 48 8 ≠ 0 → ∀ op : Opcode, op ≠ .sendByte → op.matchesWord w = false) ∧
    (w.extractLsb' 46 2 ≠ 0 → ∀ op : Opcode,
      op ≠ .ensureExported → op ≠ .setDirection → op ≠ .writeLevel → op ≠ .pulse → op.matchesWord w = false) ∧
    (w.getLsbD 45 = true → ∀ op : Opcode, op ≠ .setDirection → op ≠ .writeLevel → op.matchesWord w = false) ∧
    (w.getLsbD 44 = true → ∀ op : Opcode, op ≠ .loadFrequency → op.matchesWord w = false) ∧
    (w.extractLsb' 0 40 ≠ 0 → ∀ op : Opcode, op ≠ .loadFrequency → op ≠ .setFreq → op.matchesWord w = false) ∧
    (w.extractLsb' 56 8 = 0x02 → w.getLsbD 45 = false → ∀ op : Opcode, op.matchesWord w = false) ∧
    ((∀ op : Opcode, op.matchesWord w = false) →
      (∃ e, decode w = .error e) ∧
      ∀ (s : State) (rest : List HostInput), s.stuck = false → s.inputs = .word w :: rest →
        step s = .next { s with inputs := rest, refused := true, refusal := some .illegalWord })

/-! ## What the encoder computes -/

/-- R78: the tuning word is the exact floor, below 2^31 on the whole domain, with the values the rule gives; above P_FMAX no
rule applies it: LOAD_FREQUENCY there makes no access. -/
def Obligations.TuningWordIsTheFloor : Prop :=
  (∀ f : Nat, f ≤ 40000000 →
    (tuningWord f).toNat = f * 2 ^ 32 / 125000000 ∧
    (tuningWord f).toNat = f * 67108864 / 1953125 ∧
    (tuningWord f).toNat < 2 ^ 31 ∧ f * 2 ^ 32 < 2 ^ 58) ∧
  tuningWord 0 = 0 ∧ tuningWord 1 = 34 ∧ tuningWord 40000000 = 0x51EB851E ∧
  (∀ (f p : Nat) (d : Bool) (s : State), f > 40000000 →
    ∃ t, exec (.loadFrequency f p d) s = .next t ∧ t.refused = true ∧ t.trace = s.trace ∧ t.pins = s.pins)

/-- R80 (b), (c), (d): the tuning word is monotone, within one step below the frequency, and exact exactly at the multiples
of 1,953,125. -/
def Obligations.TuningWordLaws : Prop :=
  ∀ f : Nat, f ≤ 40000000 →
    (∀ g : Nat, g ≤ f → (tuningWord g).toNat ≤ (tuningWord f).toNat) ∧
    (tuningWord f).toNat * 125000000 ≤ f * 2 ^ 32 ∧ f * 2 ^ 32 < ((tuningWord f).toNat + 1) * 125000000 ∧
    ((tuningWord f).toNat * 125000000 = f * 2 ^ 32 ↔ 1953125 ∣ f)

/-- R59: the layout of the control byte, alone and in the 40-bit word. -/
def Obligations.ControlByteLayout : Prop :=
  ∀ (phase : Nat) (d : Bool) (tw : TuningWord), phase ≤ 31 →
    ((controlByte phase d).extractLsb' 3 5).toNat = phase ∧
    (controlByte phase d).getLsbD 2 = d ∧
    (controlByte phase d).extractLsb' 0 2 = 0 ∧
    (controlByte phase d).toNat = phase * 8 + (if d then 4 else 0) ∧
    ((controlWord tw (controlByte phase d)).extractLsb' 35 5).toNat = phase ∧
    (controlWord tw (controlByte phase d)).getLsbD 34 = d ∧
    (controlWord tw (controlByte phase d)).extractLsb' 32 2 = 0

/-- R79, R80 (g): the control byte is `(phase << 3) | (power_down << 2)`, its low two bits are 0, and it determines its
operands. -/
def Obligations.ControlByteDeterminesItsOperands : Prop :=
  ∀ (p q : Nat) (d e : Bool), p ≤ 31 → q ≤ 31 →
    controlByte p d = BitVec.ofNat 8 (p <<< 3 ||| (if d then 1 else 0) <<< 2) ∧
    controlByte p d &&& 0x03 = 0 ∧
    (controlByte p d = controlByte q e → p = q ∧ d = e)

/-- R45: the tuning word and its four bytes convert both ways without loss, bit by bit and as numbers. -/
def Obligations.TuningBytesRoundTrip : Prop :=
  (∀ tw : TuningWord, wordOfBytes (tuningByte tw 0) (tuningByte tw 1) (tuningByte tw 2) (tuningByte tw 3) = tw) ∧
  (∀ b0 b1 b2 b3 : Byte,
    (wordOfBytes b0 b1 b2 b3).toNat = b0.toNat + b1.toNat * 2 ^ 8 + b2.toNat * 2 ^ 16 + b3.toNat * 2 ^ 24 ∧
    tuningByte (wordOfBytes b0 b1 b2 b3) 0 = b0 ∧ tuningByte (wordOfBytes b0 b1 b2 b3) 1 = b1 ∧
    tuningByte (wordOfBytes b0 b1 b2 b3) 2 = b2 ∧ tuningByte (wordOfBytes b0 b1 b2 b3) 3 = b3)

/-- R58, R43: the frame is five bytes, byte `j` being `W[8j+7:8j]` of the 40-bit word `W = cat(cb, tw)`. -/
def Obligations.FrameIsTheControlWord : Prop :=
  ∀ (tw : TuningWord) (cb : Byte),
    (controlWord tw cb).extractLsb' 0 32 = tw ∧ (controlWord tw cb).extractLsb' 32 8 = cb ∧
    (commandFrame tw cb).length = 5 ∧
    ∀ j < 5, (commandFrame tw cb)[j]? = some ((controlWord tw cb).extractLsb' (8 * j) 8)

/-! ## Launch, admission, refusals -/

/-- R109: every field of the block at launch; the first action is the host's first command. -/
def Obligations.LaunchState : Prop :=
  ∀ (cfg : Config) (platform : Platform) (inputs : List HostInput) (s : State),
    s = State.launch cfg platform inputs ∨ s = State.reset →
    (∀ i : Line, (s.pin i).exported = false ∧ (s.pin i).dir = .unknown ∧ (s.pin i).level = none) ∧
    s.sess = .uninit ∧ s.cause = .none ∧ s.errinfo = none ∧ s.exit = none ∧ s.trace = [] ∧ s.refused = false ∧
    ∀ (w : CommandWord) (rest : List HostInput) (i : Instr), decode w = .ok i →
      step (s.withInputs (.word w :: rest)) = exec i (s.withInputs rest)

/-- R82, the table written out: a command the table refuses writes the refusal mark and nothing else of the block, whatever
its operands; a command the table admits is not refused for its session state, nor is any operation inside it. -/
def Obligations.SessionAdmission : Prop :=
  ∀ (i : Instr) (s : State), configValid s.cfg = true →
    let refusedByTable :=
      s.sess = .halted ∨
      (s.sess = .uninit ∧ ∃ f p d, i = .loadFrequency f p d) ∨
      (s.sess = .booted ∧ (i = .initializeLines ∨ (∃ f p, i = .setFreq f p) ∨ i = .shutdown))
    (refusedByTable → exec i s = .next { s with refused := true, refusal := some .badState }) ∧
    (¬ refusedByTable → ∀ t, exec i s = .next t → t.refusal = some .badState → s.refusal = some .badState)

/-- R67: a phase above 31 is refused in LOAD_FREQUENCY and SET_FREQ, a frequency above P_FMAX is refused in LOAD_FREQUENCY,
and in SET_FREQ it is E_FREQ_MAX instead. Which of two reasons a LOAD_FREQUENCY with both faults names is left open
(notes/assumptions/7.md). -/
def Obligations.ValueRanges : Prop :=
  ∀ (f p : Nat) (d : Bool) (s : State), configValid s.cfg = true →
    (p > 31 → s.sess = .booted →
      ∃ r, exec (.loadFrequency f p d) s = .next { s with refused := true, refusal := some r }) ∧
    (p > 31 → s.sess = .uninit →
      exec (.setFreq f p) s = .next { s with refused := true, refusal := some .phaseRange }) ∧
    (f > 40000000 → s.sess = .booted →
      exec (.loadFrequency f p d) s = .next { s with refused := true, refusal := some .freqRange } ∨
      (p > 31 ∧ exec (.loadFrequency f p d) s = .next { s with refused := true, refusal := some .phaseRange })) ∧
    (f > 40000000 → p ≤ 31 → s.sess = .uninit →
      exec (.setFreq f p) s =
        .next { s with cause := .eFreqMax, sess := .halted, exit := some s.cfg.exitFreqMax })

/-- R75, R76, R77: WRITE_LEVEL and PULSE are refused on a line that is not an exported output, SEND_BYTE where DATA or CLK is
not, with no event. -/
def Obligations.LineNotOutputIsRefused : Prop :=
  ∀ (i : Line) (b : Bool) (v : Byte) (s : State), configValid s.cfg = true → s.sess ≠ .halted →
    ((s.pin i).exported = false ∨ (s.pin i).dir ≠ .out →
      exec (.writeLevel i b) s = .next { s with refused := true, refusal := some .lineNotOutput } ∧
      exec (.pulse i) s = .next { s with refused := true, refusal := some .lineNotOutput }) ∧
    ((s.pin .data).exported = false ∨ (s.pin .data).dir ≠ .out ∨ (s.pin .clk).exported = false ∨ (s.pin .clk).dir ≠ .out →
      exec (.sendByte v) s = .next { s with refused := true, refusal := some .lineNotOutput })

/-- R11: a configuration in which two of the four line numbers are equal is refused, whatever the command. That the check
comes before that of the session state is the model's choice (notes/assumptions/6.md). -/
def Obligations.EqualLineNumbersAreRefused : Prop :=
  ∀ (i : Instr) (s : State) (l m : Line), l ≠ m → linesGet s.cfg.pins l = linesGet s.cfg.pins m →
    exec i s = .next { s with refused := true, refusal := some .badConfig }

/-! ## The pin driver -/

/-- R73: a line present after `m` export requests, `m` at most the bound, is recorded as exported, with `m` events. -/
def Obligations.EnsureExportedCompletes : Prop :=
  ∀ (s : State) (i : Line) (m : Nat), configValid s.cfg = true → s.sess ≠ .halted →
    m ≤ s.cfg.exportMaxAttempts → s.PresentAfter i m →
    exec (.ensureExported i) s = .next { s with
      pins := linesSet s.pins i { linesGet s.pins i with exported := true }
      trace := s.trace ++ List.replicate m (.exportReq i)
      platform := s.platform.after (countOf i (m + 1)) m 0 0 }

/-- R73, R91 (c): a line still absent after the allowed export requests raises `E_IO(EXPORT_EXHAUSTED)`. -/
def Obligations.EnsureExportedExhausts : Prop :=
  ∀ (s : State) (i : Line), configValid s.cfg = true → s.sess ≠ .halted →
    (∀ k ≤ s.cfg.exportMaxAttempts, s.probeAnswer i k = .absent) → s.NextExportsOk s.cfg.exportMaxAttempts →
    exec (.ensureExported i) s = .next { s with
      trace := s.trace ++ List.replicate s.cfg.exportMaxAttempts (.exportReq i)
      platform := s.platform.after (countOf i (s.cfg.exportMaxAttempts + 1)) s.cfg.exportMaxAttempts 0 0
      cause := .eIo, errinfo := some .exportExhausted, sess := .halted, exit := some 1 }

/-- R73, R91 (a), (b): a probe or an export request that fails raises `E_IO` with the platform's error, at once. -/
def Obligations.EnsureExportedFails : Prop :=
  ∀ (s : State) (i : Line) (m : Nat) (e : OsError), configValid s.cfg = true → s.sess ≠ .halted →
    (∀ k < m, s.probeAnswer i k = .absent) → s.NextExportsOk m →
    (m ≤ s.cfg.exportMaxAttempts → s.probeAnswer i m = .fail e →
      exec (.ensureExported i) s = .next { s with
        trace := s.trace ++ List.replicate m (.exportReq i)
        platform := s.platform.after (countOf i (m + 1)) m 0 0
        cause := .eIo, errinfo := some (.os e), sess := .halted, exit := some 1 }) ∧
    (m < s.cfg.exportMaxAttempts → s.probeAnswer i m = .absent → s.exportAnswer m = .fail e →
      exec (.ensureExported i) s = .next { s with
        trace := s.trace ++ List.replicate (m + 1) (.exportReq i)
        platform := s.platform.after (countOf i (m + 1)) (m + 1) 0 0
        cause := .eIo, errinfo := some (.os e), sess := .halted, exit := some 1 })

/-- R74: SET_DIRECTION exports the line, then writes its direction; the level is unknown afterwards. -/
def Obligations.SetDirectionCompletes : Prop :=
  ∀ (s : State) (i : Line) (m : Nat), configValid s.cfg = true → s.sess ≠ .halted →
    m ≤ s.cfg.exportMaxAttempts → s.PresentAfter i m → s.dirAnswer 0 = .ok →
    exec (.setDirection i) s = .next { s with
      pins := linesSet s.pins i { exported := true, dir := .out, level := none }
      trace := s.trace ++ List.replicate m (.exportReq i) ++ [.setDir i]
      platform := s.platform.after (countOf i (m + 1)) m 1 0 }

/-- R74, R91 (a) to (d), R99: a direction write that fails leaves direction and level unknown and raises `E_IO`; where the
ENSURE_EXPORTED inside raises (a probe or an export request that fails, no request left) or hangs, SET_DIRECTION ends in the
state that leaves, with export requests for its only new events: no direction write is made. -/
def Obligations.SetDirectionFails : Prop :=
  (∀ (s : State) (i : Line) (m : Nat) (e : OsError), configValid s.cfg = true → s.sess ≠ .halted →
    m ≤ s.cfg.exportMaxAttempts → s.PresentAfter i m → s.dirAnswer 0 = .fail e →
    exec (.setDirection i) s = .next { s with
      pins := linesSet s.pins i { exported := true, dir := .unknown, level := none }
      trace := s.trace ++ List.replicate m (.exportReq i) ++ [.setDir i]
      platform := s.platform.after (countOf i (m + 1)) m 1 0
      cause := .eIo, errinfo := some (.os e), sess := .halted, exit := some 1 }) ∧
  (∀ (s t : State) (i : Line), s.sess ≠ .halted → s.stuck = false → exec (.ensureExported i) s = .next t →
    t.sess = .halted ∨ t.stuck = true →
    exec (.setDirection i) s = .next t ∧ t.pins = s.pins ∧ ∃ n, t.trace = s.trace ++ List.replicate n (.exportReq i))

/-- R75: WRITE_LEVEL drives the line, or leaves its level unknown and raises `E_IO`; one event either way. -/
def Obligations.WriteLevelWrites : Prop :=
  ∀ (s : State) (i : Line) (b : Bool), configValid s.cfg = true → s.sess ≠ .halted →
    (s.pin i).exported = true → (s.pin i).dir = .out →
    (s.writeAnswer 0 = .ok →
      exec (.writeLevel i b) s = .next { s with
        pins := linesSet s.pins i { exported := true, dir := .out, level := some b }
        trace := s.trace ++ [.write i b]
        platform := s.platform.after (linesAll 0) 0 0 1 }) ∧
    (∀ e, s.writeAnswer 0 = .fail e →
      exec (.writeLevel i b) s = .next { s with
        pins := linesSet s.pins i { exported := true, dir := .out, level := none }
        trace := s.trace ++ [.write i b]
        platform := s.platform.after (linesAll 0) 0 0 1
        cause := .eIo, errinfo := some (.os e), sess := .halted, exit := some 1 })

/-- R76: PULSE drives the line high and then low; where the first write fails the second is not made. -/
def Obligations.PulseWritesHighThenLow : Prop :=
  ∀ (s : State) (i : Line), configValid s.cfg = true → s.sess ≠ .halted →
    (s.pin i).exported = true → (s.pin i).dir = .out →
    (s.NextWritesOk 2 →
      exec (.pulse i) s = .next { s with
        pins := linesSet s.pins i { exported := true, dir := .out, level := some false }
        trace := s.trace ++ [.write i true, .write i false]
        platform := s.platform.after (linesAll 0) 0 0 2 }) ∧
    (∀ e, s.writeAnswer 0 = .fail e →
      exec (.pulse i) s = .next { s with
        pins := linesSet s.pins i { exported := true, dir := .out, level := none }
        trace := s.trace ++ [.write i true]
        platform := s.platform.after (linesAll 0) 0 0 1
        cause := .eIo, errinfo := some (.os e), sess := .halted, exit := some 1 }) ∧
    (∀ e, s.writeAnswer 0 = .ok → s.writeAnswer 1 = .fail e →
      exec (.pulse i) s = .next { s with
        pins := linesSet s.pins i { exported := true, dir := .out, level := none }
        trace := s.trace ++ [.write i true, .write i false]
        platform := s.platform.after (linesAll 0) 0 0 2
        cause := .eIo, errinfo := some (.os e), sess := .halted, exit := some 1 })

/-! ## The serializer and the encoder -/

/-- R77: SEND_BYTE makes the 24 writes of its eight bits, least significant first; DATA ends at bit 7 and CLK low, and
nothing else changes. -/
def Obligations.SendByteShiftsOutTheByte : Prop :=
  ∀ (s : State) (v : Byte), configValid s.cfg = true → s.sess ≠ .halted →
    s.lineIsOutput .data = true → s.lineIsOutput .clk = true → s.NextWritesOk 24 →
    exec (.sendByte v) s = .next { s with
      pins := { s.pins with
        data := { s.pins.data with level := some (v.getLsbD 7) }
        clk := { s.pins.clk with level := some false } }
      trace := s.trace ++
        (List.range 8).flatMap (fun k => [.write .data (v.getLsbD k), .write .clk true, .write .clk false])
      platform := s.platform.after (linesAll 0) 0 0 24 }

/-- R81: LOAD_FREQUENCY sends its five bytes and pulses UPDATE once, 122 events; DATA ends at `phase[4]`, CLK and UPDATE low,
and nothing else changes. -/
def Obligations.LoadFrequencySendsTheFrame : Prop :=
  ∀ (s : State) (f p : Nat) (d : Bool), configValid s.cfg = true → s.sess = .booted → s.AllOutputs →
    f ≤ 40000000 → p ≤ 31 → s.NextWritesOk 122 →
    (frameEvents (frameOf f p d)).length = 122 ∧
    exec (.loadFrequency f p d) s = .next { s with
      pins := { s.pins with
        data := { s.pins.data with level := some (p.testBit 4) }
        clk := { s.pins.clk with level := some false }
        update := { s.pins.update with level := some false } }
      trace := s.trace ++
        (List.range 5).flatMap (fun j => byteEvents ((wordOf f p d).extractLsb' (8 * j) 8)) ++
        [.write .update true, .write .update false]
      platform := s.platform.after (linesAll 0) 0 0 122 }

/-- R44, R115, R116: the 40 bits of a frame go out as `W[0]` to `W[39]`, each written to DATA just before its CLK pulse and held
until that pulse has ended, and UPDATE is pulsed once, after the 40th. -/
def Obligations.FrameEventOrder : Prop :=
  ∀ (s : State) (f p : Nat) (d : Bool), configValid s.cfg = true → s.sess = .booted → s.AllOutputs →
    f ≤ 40000000 → p ≤ 31 → s.NextWritesOk 122 →
    ∃ t l, exec (.loadFrequency f p d) s = .next t ∧ t.trace = s.trace ++ l ∧ l.length = 122 ∧
      (∀ n < 40,
        l[3 * n]? = some (.write .data ((wordOf f p d).getLsbD n)) ∧
        l[3 * n + 1]? = some (.write .clk true) ∧ l[3 * n + 2]? = some (.write .clk false)) ∧
      l[120]? = some (.write .update true) ∧ l[121]? = some (.write .update false)

/-- R77, R81, R97 (e), (f): where write `k` of a frame fails, the trace keeps the events up to and including it, the failing
line's level is unknown, the lines are otherwise as the earlier writes left them, and `E_IO` is taken. -/
def Obligations.FrameAbandonedAtTheFailingWrite : Prop :=
  ∀ (s : State) (f p : Nat) (d : Bool) (k : Nat) (i : Line) (b : Bool) (e : OsError),
    configValid s.cfg = true → s.sess = .booted → s.AllOutputs → f ≤ 40000000 → p ≤ 31 →
    (frameEvents (frameOf f p d))[k]? = some (.write i b) → s.NextWritesOk k → s.writeAnswer k = .fail e →
    let pins := drivenPins s.pins ((frameEvents (frameOf f p d)).take k)
    exec (.loadFrequency f p d) s = .next { s with
      pins := linesSet pins i { linesGet pins i with level := none }
      trace := s.trace ++ (frameEvents (frameOf f p d)).take (k + 1)
      platform := s.platform.after (linesAll 0) 0 0 (k + 1)
      cause := .eIo, errinfo := some (.os e), sess := .halted, exit := some 1 }

/-! ## The session -/

/-- R83: INITIALIZE where every line is present at once: 14 events, every line an output driven low, `BOOTED`. -/
def Obligations.InitializeBoots : Prop :=
  ∀ s : State, configValid s.cfg = true → s.sess = .uninit → s.HealthyFor 2 4 10 →
    exec .initializeLines s = .next { s with
      pins :=
        { clk := { exported := true, dir := .out, level := some false }
          update := { exported := true, dir := .out, level := some false }
          data := { exported := true, dir := .out, level := some false }
          reset := { exported := true, dir := .out, level := some false } }
      sess := .booted
      trace := s.trace ++
        [.setDir .clk, .setDir .update, .setDir .data, .setDir .reset,
         .write .clk false, .write .update false, .write .data false, .write .reset false,
         .write .reset true, .write .reset false, .write .clk true, .write .clk false,
         .write .update true, .write .update false]
      platform := s.platform.after (linesAll 2) 0 4 10 }

/-- R83, R42: INITIALIZE where each line is present after some export requests, at most the bound: those requests come just
before the line's direction write, and the end is the same. -/
def Obligations.InitializeBootsAfterExports : Prop :=
  ∀ (s : State) (m : Lines Nat), configValid s.cfg = true → s.sess = .uninit →
    (∀ i, linesGet m i ≤ s.cfg.exportMaxAttempts) → s.PresentAfterEach m →
    s.NextDirsOk 4 → s.NextWritesOk 10 →
    exec .initializeLines s = .next { s with
      pins :=
        { clk := { exported := true, dir := .out, level := some false }
          update := { exported := true, dir := .out, level := some false }
          data := { exported := true, dir := .out, level := some false }
          reset := { exported := true, dir := .out, level := some false } }
      sess := .booted
      trace := s.trace ++
        [Line.clk, .update, .data, .reset].flatMap
          (fun i => List.replicate (linesGet m i) (.exportReq i) ++ [.setDir i]) ++
        [.write .clk false, .write .update false, .write .data false, .write .reset false,
         .write .reset true, .write .reset false, .write .clk true, .write .clk false,
         .write .update true, .write .update false]
      platform := s.platform.after (linesAdd m (linesAll 2)) (linesSum m) 4 10 }

/-- R86, R87: SET_FREQ within the limit and SHUTDOWN bootstrap, send one frame and halt with exit 0: 136 events. -/
def Obligations.HostCommandsComplete : Prop :=
  ∀ s : State, configValid s.cfg = true → s.sess = .uninit → s.HealthyFor 2 4 132 →
    (∀ f p : Nat, f ≤ 40000000 → p ≤ 31 →
      (bootstrapEvents ++ frameEvents (frameOf f p false)).length = 136 ∧
      exec (.setFreq f p) s = .next { s with
        pins :=
          { clk := { exported := true, dir := .out, level := some false }
            update := { exported := true, dir := .out, level := some false }
            data := { exported := true, dir := .out, level := some (p.testBit 4) }
            reset := { exported := true, dir := .out, level := some false } }
        sess := .halted
        exit := some 0
        trace := s.trace ++ bootstrapEvents ++ frameEvents (frameOf f p false)
        platform := s.platform.after (linesAll 2) 0 4 132 }) ∧
    exec .shutdown s = .next { s with
      pins :=
        { clk := { exported := true, dir := .out, level := some false }
          update := { exported := true, dir := .out, level := some false }
          data := { exported := true, dir := .out, level := some false }
          reset := { exported := true, dir := .out, level := some false } }
      sess := .halted
      exit := some 0
      trace := s.trace ++ bootstrapEvents ++ frameEvents [0x00, 0x00, 0x00, 0x00, 0x04]
      platform := s.platform.after (linesAll 2) 0 4 132 }

/-- R92: `E_FREQ_MAX` is raised by SET_FREQ with `f > P_FMAX`, before any access, with exit `P_EXIT_FREQ_MAX`; by nothing
else; and a LOAD_FREQUENCY with `f > P_FMAX` is refused instead. -/
def Obligations.FreqMaxOnlyFromSetFreq : Prop :=
  (∀ (s : State) (f p : Nat), configValid s.cfg = true → s.sess = .uninit → p ≤ 31 → f > 40000000 →
    exec (.setFreq f p) s =
      .next { s with cause := .eFreqMax, sess := .halted, exit := some s.cfg.exitFreqMax }) ∧
  (∀ (i : Instr) (s t : State), exec i s = .next t → s.cause ≠ .eFreqMax → t.cause = .eFreqMax →
    (∃ f p, i = .setFreq f p ∧ f > 40000000) ∧ t.trace = s.trace) ∧
  (∀ (s : State) (f p : Nat) (d : Bool), configValid s.cfg = true → s.sess = .booted → f > 40000000 →
    ∃ r, exec (.loadFrequency f p d) s = .next { s with refused := true, refusal := some r })

/-- R71: each composite command is its expansion into simpler commands, given one after the other while the session goes on;
INITIALIZE, SET_FREQ and SHUTDOWN then write the session state (R83, R86, R87). -/
def Obligations.CompositesAreTheirExpansions : Prop :=
  ∀ s : State, configValid s.cfg = true → s.stuck = false →
    (∀ i, s.sess ≠ .halted → s.lineIsOutput i = true →
      exec (.pulse i) s = .next (execAll [.writeLevel i true, .writeLevel i false] s)) ∧
    (∀ v : Byte, s.sess ≠ .halted → s.lineIsOutput .data = true → s.lineIsOutput .clk = true →
      exec (.sendByte v) s =
        .next (execAll ((List.range 8).flatMap fun k => [.writeLevel .data (v.getLsbD k), .pulse .clk]) s)) ∧
    (∀ (f p : Nat) (d : Bool), s.sess = .booted → s.AllOutputs → f ≤ 40000000 → p ≤ 31 →
      exec (.loadFrequency f p d) s =
        .next (execAll ((frameOf f p d).map Instr.sendByte ++ [.pulse .update]) s)) ∧
    (s.sess = .uninit →
      exec .initializeLines s =
        .next ((execAll
          ([Line.clk, .update, .data, .reset].flatMap (fun l => [.ensureExported l, .setDirection l]) ++
            [.writeLevel .clk false, .writeLevel .update false, .writeLevel .data false, .writeLevel .reset false] ++
            [.pulse .reset, .pulse .clk, .pulse .update]) s).ifRunning State.boot)) ∧
    (s.sess = .uninit →
      exec .shutdown s = .next ((execAll [.initializeLines, .loadFrequency 0 0 true] s).ifRunning State.endSession)) ∧
    (∀ f p : Nat, s.sess = .uninit → f ≤ 40000000 → p ≤ 31 →
      exec (.setFreq f p) s =
        .next ((execAll [.initializeLines, .loadFrequency f p false] s).ifRunning State.endSession))

/-! ## Exceptions, hangs and the host -/

/-- R97: a command that raises ends the session: the cause it sets decides the exit status, `errinfo` is written for `E_IO`
and only for it, no event is taken back, and a line seen present stays so. -/
def Obligations.ExceptionEndsTheSession : Prop :=
  ∀ (i : Instr) (s t : State), exec i s = .next t → s.cause = .none → t.cause ≠ .none →
    t.sess = .halted ∧ s.sess ≠ .halted ∧ s.trace <+: t.trace ∧
    (∀ j, (s.pin j).exported = true → (t.pin j).exported = true) ∧
    (t.cause = .eIo → t.exit = some 1 ∧ ∃ info, t.errinfo = some info) ∧
    (t.cause = .eFreqMax → t.exit = some s.cfg.exitFreqMax ∧ t.errinfo = s.errinfo ∧ t.trace = s.trace ∧ t.pins = s.pins) ∧
    t.stuck = s.stuck ∧ t.refused = s.refused

/-- R99: an access that answers `HANG` leaves its event and nothing after it, no cause, no exit, no change of session; a
probe that hangs leaves no event; and a stuck block has no further step and is not final. `stuck` is
the model's own mark of it (notes/assumptions/4.md). -/
def Obligations.HungAccessLeavesTheBlockStuck : Prop :=
  (∀ (s : State) (i : Line) (b : Bool), configValid s.cfg = true → s.sess ≠ .halted →
    (s.probeAnswer i 0 = .hang →
      exec (.ensureExported i) s = .next { s with stuck := true, platform := s.platform.after (countOf i 1) 0 0 0 }) ∧
    (s.probeAnswer i 0 = .absent → s.exportAnswer 0 = .hang →
      exec (.ensureExported i) s =
        .next { s with stuck := true, trace := s.trace ++ [.exportReq i], platform := s.platform.after (countOf i 1) 1 0 0 }) ∧
    (s.probeAnswer i 0 = .present → s.dirAnswer 0 = .hang →
      exec (.setDirection i) s =
        .next { s with
          stuck := true
          pins := linesSet s.pins i { linesGet s.pins i with exported := true }
          trace := s.trace ++ [.setDir i]
          platform := s.platform.after (countOf i 1) 0 1 0 }) ∧
    (s.lineIsOutput i = true → s.writeAnswer 0 = .hang →
      exec (.writeLevel i b) s =
        .next { s with stuck := true, trace := s.trace ++ [.write i b], platform := s.platform.after (linesAll 0) 0 0 1 })) ∧
  (∀ (i : Instr) (s t : State), s.stuck = false → exec i s = .next t → t.stuck = true →
    t.cause = s.cause ∧ t.errinfo = s.errinfo ∧ t.exit = s.exit ∧ t.sess ≠ .halted ∧ t.refused = s.refused) ∧
  (∀ s : State, s.stuck = true → step s = .fault .stuck ∧ s.final = false)

/-- R24: no rule reads `errinfo`: two states that differ in it alone behave alike. -/
def Obligations.ErrinfoIsNeverRead : Prop :=
  ∀ (i : Instr) (s t t' : State) (e : Option ErrInfo),
    exec i s = .next t → exec i { s with errinfo := e } = .next t' →
    { t with errinfo := none } = { t' with errinfo := none } ∧
    (t.errinfo = t'.errinfo ∨ (t.errinfo = s.errinfo ∧ t'.errinfo = e))

/-- R65, R84, R85 (a), R96: when the host's next word decodes, a step takes it and runs its command. That
the words wait in a list in State is the model's choice (notes/assumptions/5.md). -/
def Obligations.StepRunsTheDecodedCommand : Prop :=
  ∀ (s : State) (w : CommandWord) (rest : List HostInput) (i : Instr),
    s.stuck = false → s.inputs = .word w :: rest → decode w = .ok i →
    step s = exec i { s with inputs := rest }

/-- R72: the external interface's command lines: help and unparsed lines are refused, the shutdown flag is SHUTDOWN, a
frequency with or without a phase is SET_FREQ, the phase 0 where absent (a phase of 32 to 255 is then refused by SET_FREQ's own
check, R67). A frequency that fits no field is refused (D35, R86 corner case (c)), and so is a phase that fits none, which is
the model's reading (notes/assumptions/10.md). `refusal` is the model's own record of the reason
(notes/assumptions/3.md). -/
def Obligations.CommandLinesAreCommands : Prop :=
  ∀ (s : State) (rest : List HostInput), s.stuck = false →
    (∀ c, c = .noArguments ∨ c = .unparsed → s.inputs = .line c :: rest →
      step s = .next { s with inputs := rest, refused := true, refusal := some .helpOrUnparsed }) ∧
    (s.inputs = .line .shutdownFlag :: rest → step s = exec .shutdown { s with inputs := rest }) ∧
    (∀ f, f < 2 ^ 32 → s.inputs = .line (.frequency f none) :: rest → step s = exec (.setFreq f 0) { s with inputs := rest }) ∧
    (∀ f p, f < 2 ^ 32 → p < 2 ^ 8 → s.inputs = .line (.frequency f (some p)) :: rest →
      step s = exec (.setFreq f p) { s with inputs := rest }) ∧
    (∀ f p, 2 ^ 8 ≤ p → s.inputs = .line (.frequency f (some p)) :: rest →
      step s = .next { s with inputs := rest, refused := true, refusal := some .helpOrUnparsed }) ∧
    (∀ f p, 2 ^ 32 ≤ f → s.inputs = .line (.frequency f p) :: rest →
      step s = .next { s with inputs := rest, refused := true, refusal := some .helpOrUnparsed })

/-- R70: the line `set_freq <f>` assembles to the word of `set_freq <f>, 0`, whatever text without a comma stands for `<f>`;
where that text is a number of the FREQ field, it is the word of SET_FREQ with that frequency and phase 0. -/
def Obligations.OmittedPhaseAssemblesAsZero : Prop :=
  ∀ f : List Char, ',' ∉ f →
    assemble ("set_freq ".toList ++ f) = assemble ("set_freq ".toList ++ f ++ ", 0".toList) ∧
    ∀ n, asmNumber f = some n → n < 2 ^ 32 → assemble ("set_freq ".toList ++ f) = some (encode (.setFreq n 0))

/-! ## Invariants -/

/-- R109: the launch is coherent, under every configuration, platform and list of commands; so is the state of reset. -/
def Obligations.LaunchIsCoherent : Prop :=
  (∀ cfg platform inputs, (State.launch cfg platform inputs).Coherent) ∧ State.reset.Coherent

/-- R19 to R25, R55, R99, R113: every step keeps the invariant that ties lines, session, cause, exit, `errinfo` and trace
together. -/
def Obligations.StepKeepsCoherent : Prop :=
  ∀ s t : State, s.Coherent → step s = .next t → t.Coherent

/-- R19, R22, R23, R26, R27, R31: what no step takes back. -/
def Obligations.StepExtendsTheState : Prop :=
  ∀ s t : State, s.Coherent → step s = .next t → s.Extends t

/-- R89: every command appends a bounded number of events, whatever the platform answers. -/
def Obligations.CommandsAreBounded : Prop :=
  ∀ (i : Instr) (s t : State), exec i s = .next t →
    ∃ l, t.trace = s.trace ++ l ∧ l.length ≤ eventBound s.cfg.exportMaxAttempts i

/-- R52, R89, R97 (e): whatever the platform answers, the direction and level writes of a command are made in its fixed
order and stop where the command stops; a command that is not cut short has made them all. -/
def Obligations.WritesFollowThePlan : Prop :=
  ∀ (i : Instr) (s t : State), s.Coherent → s.cause = .none → s.stuck = false → s.refused = false →
    exec i s = .next t →
    ∃ l, t.trace = s.trace ++ l ∧ (l.filter fun e => !e.isExport) <+: plannedEvents i ∧
      (t.cause = .none → t.stuck = false → t.refused = false → (l.filter fun e => !e.isExport) = plannedEvents i)

/-! ## The receiver -/

/-- R113: after every INITIALIZE that reaches `BOOTED`, whatever export requests it needed, every line is an exported output at
level 0; from launch the receiver's first segment is then `{bits: [0], reset: true}`, and the only one. A healthy platform lets
INITIALIZE reach `BOOTED`. -/
def Obligations.BootstrapAsTheReceiverSeesIt : Prop :=
  (∀ s t : State, exec .initializeLines s = .next t → s.sess ≠ .booted → t.sess = .booted →
    (∀ i, (t.pin i).exported = true ∧ (t.pin i).dir = .out ∧ (t.pin i).level = some false) ∧
    (s.CleanLaunch →
      (receiverView t).segs = [{ bits := [some false], reset := true, uncertain := false }] ∧
      (receiverView t).cur = { bits := [], reset := false, uncertain := false })) ∧
  (∀ s : State, s.CleanLaunch → configValid s.cfg = true → s.HealthyFor 2 4 10 →
    ∃ t, exec .initializeLines s = .next t ∧ t.sess = .booted)

/-- R44, R55, R58, R81: from any coherent booted state with CLK and UPDATE low and DATA known, LOAD_FREQUENCY hands the
receiver the 40 bits of its control word, `W[0]` first, and latches them. -/
def Obligations.ReceiverTakesTheControlWord : Prop :=
  ∀ (s : State) (f p : Nat) (d : Bool), s.Coherent → configValid s.cfg = true → s.sess = .booted → s.stuck = false →
    (s.pin .clk).level = some false → (s.pin .update).level = some false → (s.pin .data).level ≠ none →
    f ≤ 40000000 → p ≤ 31 → s.NextWritesOk 122 →
    ∃ t, exec (.loadFrequency f p d) s = .next t ∧
      (receiverView t).segs = (receiverView s).segs ++
        [{ (receiverView s).cur with
            bits := (receiverView s).cur.bits ++ (List.range 40).map fun n => some ((wordOf f p d).getLsbD n) }] ∧
      (receiverView t).cur = { bits := [], reset := false, uncertain := false }

/-- 95_test_vectors.md section 1.7, R86: SET_FREQ from launch delivers a bootstrap and exactly the 40-bit word of its
operands, the tuning word `floor(f * 2^32 / 125,000,000)` under the control byte `phase << 3`. -/
def Obligations.SetFreqDeliversTheWord : Prop :=
  ∀ (s : State) (f p : Nat), s.CleanLaunch → configValid s.cfg = true → s.HealthyFor 2 4 132 →
    f ≤ 40000000 → p ≤ 31 →
    ∃ (t : State) (w : ControlWord), exec (.setFreq f p) s = .next t ∧ t.hostExit = some 0 ∧
      (receiverView t).segs = [bootstrapSegment, frameSegment w] ∧ (receiverView t).cur = .empty ∧
      w.toNat % 2 ^ 32 = f * 2 ^ 32 / 125000000 ∧ w.toNat / 2 ^ 32 = 8 * p

/-- R41, R55, R97, R116: whatever the platform answers, the segments a SET_FREQ or SHUTDOWN from launch lets the receiver
latch are the bootstrap's and then the frame's, whole and in that order: no partial or wrong word is ever latched. -/
def Obligations.NoWrongWordIsLatched : Prop :=
  ∀ s : State, s.CleanLaunch →
    (∀ (f p : Nat) (t : State), exec (.setFreq f p) s = .next t →
      (receiverView t).segs <+: [bootstrapSegment, frameSegment (wordOf f p false)] ∧
      (receiverOf t.trace).segs <+: [bootstrapSegment, frameSegment (wordOf f p false)]) ∧
    (∀ t : State, exec .shutdown s = .next t →
      (receiverView t).segs <+: [bootstrapSegment, frameSegment 0x0400000000] ∧
      (receiverOf t.trace).segs <+: [bootstrapSegment, frameSegment 0x0400000000])

/-! ## A platform that serves the block well -/

/-- R42, R91, R93: an invariant of every step: where each line becomes present within the allowed export requests and stays so,
and every other access is answered well, no command takes `E_IO` and none hangs, whichever commands the host gives. -/
def Obligations.WellServedStaysWellServed : Prop :=
  ∀ s t : State, s.WellServed → step s = .next t → t.WellServed

/-- R42: a launch under `Healthy` or under `HealthyAfterExport(n)` is well served. -/
def Obligations.NamedPremisesServeWell : Prop :=
  ∀ s : State, s.CleanLaunch →
    (s.Healthy → s.WellServed) ∧ (∀ n, s.HealthyAfterExport n → s.WellServed)
end

