-- ==== Sys2Proof/Laws/Assembler.lean ====
section
/-! SUPPORT. The small laws of the assembler's text operations (R69). -/

namespace Sys2Proof.Machine

/-- The text before the first `c` of two texts in a row. -/
theorem splitAtChar_append (c : Char) (l m : List Char) :
    (splitAtChar c (l ++ m)).1 = if c ∈ l then (splitAtChar c l).1 else l ++ (splitAtChar c m).1 := by
  induction l with
  | nil => simp
  | cons x l ih =>
    by_cases h : x = c
    · simp [splitAtChar, h]
    · have h' : ¬ c = x := fun e => h e.symm
      simp only [List.cons_append, splitAtChar, h, if_false, ih, List.mem_cons, h', false_or]
      split <;> rfl

/-- A text without a separator is one piece. -/
theorem splitOnChar_of_not_mem {c : Char} {l : List Char} (h : c ∉ l) : splitOnChar c l = [l] := by
  induction l with
  | nil => rfl
  | cons x l ih =>
    simp only [List.mem_cons, not_or] at h
    simp [splitOnChar, ih h.2, Ne.symm h.1]

/-- The first separator ends the first piece. -/
theorem splitOnChar_append {c : Char} {l : List Char} (m : List Char) (h : c ∉ l) :
    splitOnChar c (l ++ c :: m) = l :: splitOnChar c m := by
  induction l with
  | nil => simp [splitOnChar]
  | cons x l ih =>
    simp only [List.mem_cons, not_or] at h
    simp [splitOnChar, ih h.2, Ne.symm h.1]

/-- A text without a `;` is its own text before the comment. -/
theorem dropComment_of_not_mem {l : List Char} (h : ';' ∉ l) : dropComment l = l := by
  have := splitAtChar_append ';' l []
  simpa [dropComment, splitAtChar, h] using this

end Sys2Proof.Machine
end

