-- ==== Sys2Proof/Laws/State.lean ====
section
/-! SUPPORT. What each update of State does to each field, one rewriting lemma a field. -/

namespace Sys2Proof.Machine.State

variable (s : State)

/-! ## setPin -/

@[simp] theorem setPin_cfg (i : Line) (p : Pin) : (s.setPin i p).cfg = s.cfg := rfl
@[simp] theorem setPin_pins (i : Line) (p : Pin) : (s.setPin i p).pins = linesSet s.pins i p := rfl
@[simp] theorem setPin_sess (i : Line) (p : Pin) : (s.setPin i p).sess = s.sess := rfl
@[simp] theorem setPin_cause (i : Line) (p : Pin) : (s.setPin i p).cause = s.cause := rfl
@[simp] theorem setPin_errinfo (i : Line) (p : Pin) : (s.setPin i p).errinfo = s.errinfo := rfl
@[simp] theorem setPin_exit (i : Line) (p : Pin) : (s.setPin i p).exit = s.exit := rfl
@[simp] theorem setPin_trace (i : Line) (p : Pin) : (s.setPin i p).trace = s.trace := rfl
@[simp] theorem setPin_refused (i : Line) (p : Pin) : (s.setPin i p).refused = s.refused := rfl
@[simp] theorem setPin_refusal (i : Line) (p : Pin) : (s.setPin i p).refusal = s.refusal := rfl
@[simp] theorem setPin_stuck (i : Line) (p : Pin) : (s.setPin i p).stuck = s.stuck := rfl
@[simp] theorem setPin_platform (i : Line) (p : Pin) : (s.setPin i p).platform = s.platform := rfl
@[simp] theorem setPin_inputs (i : Line) (p : Pin) : (s.setPin i p).inputs = s.inputs := rfl

/-! ## setExported -/

@[simp] theorem setExported_cfg (i : Line) : (s.setExported i).cfg = s.cfg := rfl
@[simp] theorem setExported_pins (i : Line) : (s.setExported i).pins = linesSet s.pins i { s.pin i with exported := true } := rfl
@[simp] theorem setExported_sess (i : Line) : (s.setExported i).sess = s.sess := rfl
@[simp] theorem setExported_cause (i : Line) : (s.setExported i).cause = s.cause := rfl
@[simp] theorem setExported_errinfo (i : Line) : (s.setExported i).errinfo = s.errinfo := rfl
@[simp] theorem setExported_exit (i : Line) : (s.setExported i).exit = s.exit := rfl
@[simp] theorem setExported_trace (i : Line) : (s.setExported i).trace = s.trace := rfl
@[simp] theorem setExported_refused (i : Line) : (s.setExported i).refused = s.refused := rfl
@[simp] theorem setExported_refusal (i : Line) : (s.setExported i).refusal = s.refusal := rfl
@[simp] theorem setExported_stuck (i : Line) : (s.setExported i).stuck = s.stuck := rfl
@[simp] theorem setExported_platform (i : Line) : (s.setExported i).platform = s.platform := rfl
@[simp] theorem setExported_inputs (i : Line) : (s.setExported i).inputs = s.inputs := rfl

/-! ## setDir -/

@[simp] theorem setDir_cfg (i : Line) (d : Dir) : (s.setDir i d).cfg = s.cfg := rfl
@[simp] theorem setDir_pins (i : Line) (d : Dir) : (s.setDir i d).pins = linesSet s.pins i { s.pin i with dir := d, level := none } := rfl
@[simp] theorem setDir_sess (i : Line) (d : Dir) : (s.setDir i d).sess = s.sess := rfl
@[simp] theorem setDir_cause (i : Line) (d : Dir) : (s.setDir i d).cause = s.cause := rfl
@[simp] theorem setDir_errinfo (i : Line) (d : Dir) : (s.setDir i d).errinfo = s.errinfo := rfl
@[simp] theorem setDir_exit (i : Line) (d : Dir) : (s.setDir i d).exit = s.exit := rfl
@[simp] theorem setDir_trace (i : Line) (d : Dir) : (s.setDir i d).trace = s.trace := rfl
@[simp] theorem setDir_refused (i : Line) (d : Dir) : (s.setDir i d).refused = s.refused := rfl
@[simp] theorem setDir_refusal (i : Line) (d : Dir) : (s.setDir i d).refusal = s.refusal := rfl
@[simp] theorem setDir_stuck (i : Line) (d : Dir) : (s.setDir i d).stuck = s.stuck := rfl
@[simp] theorem setDir_platform (i : Line) (d : Dir) : (s.setDir i d).platform = s.platform := rfl
@[simp] theorem setDir_inputs (i : Line) (d : Dir) : (s.setDir i d).inputs = s.inputs := rfl

/-! ## setLevel -/

@[simp] theorem setLevel_cfg (i : Line) (l : Option Bool) : (s.setLevel i l).cfg = s.cfg := rfl
@[simp] theorem setLevel_pins (i : Line) (l : Option Bool) : (s.setLevel i l).pins = linesSet s.pins i { s.pin i with level := l } := rfl
@[simp] theorem setLevel_sess (i : Line) (l : Option Bool) : (s.setLevel i l).sess = s.sess := rfl
@[simp] theorem setLevel_cause (i : Line) (l : Option Bool) : (s.setLevel i l).cause = s.cause := rfl
@[simp] theorem setLevel_errinfo (i : Line) (l : Option Bool) : (s.setLevel i l).errinfo = s.errinfo := rfl
@[simp] theorem setLevel_exit (i : Line) (l : Option Bool) : (s.setLevel i l).exit = s.exit := rfl
@[simp] theorem setLevel_trace (i : Line) (l : Option Bool) : (s.setLevel i l).trace = s.trace := rfl
@[simp] theorem setLevel_refused (i : Line) (l : Option Bool) : (s.setLevel i l).refused = s.refused := rfl
@[simp] theorem setLevel_refusal (i : Line) (l : Option Bool) : (s.setLevel i l).refusal = s.refusal := rfl
@[simp] theorem setLevel_stuck (i : Line) (l : Option Bool) : (s.setLevel i l).stuck = s.stuck := rfl
@[simp] theorem setLevel_platform (i : Line) (l : Option Bool) : (s.setLevel i l).platform = s.platform := rfl
@[simp] theorem setLevel_inputs (i : Line) (l : Option Bool) : (s.setLevel i l).inputs = s.inputs := rfl

/-! ## emit -/

@[simp] theorem emit_cfg (e : Event) : (s.emit e).cfg = s.cfg := rfl
@[simp] theorem emit_pins (e : Event) : (s.emit e).pins = s.pins := rfl
@[simp] theorem emit_sess (e : Event) : (s.emit e).sess = s.sess := rfl
@[simp] theorem emit_cause (e : Event) : (s.emit e).cause = s.cause := rfl
@[simp] theorem emit_errinfo (e : Event) : (s.emit e).errinfo = s.errinfo := rfl
@[simp] theorem emit_exit (e : Event) : (s.emit e).exit = s.exit := rfl
@[simp] theorem emit_trace (e : Event) : (s.emit e).trace = s.trace ++ [e] := rfl
@[simp] theorem emit_refused (e : Event) : (s.emit e).refused = s.refused := rfl
@[simp] theorem emit_refusal (e : Event) : (s.emit e).refusal = s.refusal := rfl
@[simp] theorem emit_stuck (e : Event) : (s.emit e).stuck = s.stuck := rfl
@[simp] theorem emit_platform (e : Event) : (s.emit e).platform = s.platform := rfl
@[simp] theorem emit_inputs (e : Event) : (s.emit e).inputs = s.inputs := rfl

/-! ## boot -/

@[simp] theorem boot_cfg : (s.boot).cfg = s.cfg := rfl
@[simp] theorem boot_pins : (s.boot).pins = s.pins := rfl
@[simp] theorem boot_sess : (s.boot).sess = .booted := rfl
@[simp] theorem boot_cause : (s.boot).cause = s.cause := rfl
@[simp] theorem boot_errinfo : (s.boot).errinfo = s.errinfo := rfl
@[simp] theorem boot_exit : (s.boot).exit = s.exit := rfl
@[simp] theorem boot_trace : (s.boot).trace = s.trace := rfl
@[simp] theorem boot_refused : (s.boot).refused = s.refused := rfl
@[simp] theorem boot_refusal : (s.boot).refusal = s.refusal := rfl
@[simp] theorem boot_stuck : (s.boot).stuck = s.stuck := rfl
@[simp] theorem boot_platform : (s.boot).platform = s.platform := rfl
@[simp] theorem boot_inputs : (s.boot).inputs = s.inputs := rfl

/-! ## endSession -/

@[simp] theorem endSession_cfg : (s.endSession).cfg = s.cfg := rfl
@[simp] theorem endSession_pins : (s.endSession).pins = s.pins := rfl
@[simp] theorem endSession_sess : (s.endSession).sess = .halted := rfl
@[simp] theorem endSession_cause : (s.endSession).cause = s.cause := rfl
@[simp] theorem endSession_errinfo : (s.endSession).errinfo = s.errinfo := rfl
@[simp] theorem endSession_exit : (s.endSession).exit = some 0 := rfl
@[simp] theorem endSession_trace : (s.endSession).trace = s.trace := rfl
@[simp] theorem endSession_refused : (s.endSession).refused = s.refused := rfl
@[simp] theorem endSession_refusal : (s.endSession).refusal = s.refusal := rfl
@[simp] theorem endSession_stuck : (s.endSession).stuck = s.stuck := rfl
@[simp] theorem endSession_platform : (s.endSession).platform = s.platform := rfl
@[simp] theorem endSession_inputs : (s.endSession).inputs = s.inputs := rfl

/-! ## refuse -/

@[simp] theorem refuse_cfg (r : RefusalReason) : (s.refuse r).cfg = s.cfg := rfl
@[simp] theorem refuse_pins (r : RefusalReason) : (s.refuse r).pins = s.pins := rfl
@[simp] theorem refuse_sess (r : RefusalReason) : (s.refuse r).sess = s.sess := rfl
@[simp] theorem refuse_cause (r : RefusalReason) : (s.refuse r).cause = s.cause := rfl
@[simp] theorem refuse_errinfo (r : RefusalReason) : (s.refuse r).errinfo = s.errinfo := rfl
@[simp] theorem refuse_exit (r : RefusalReason) : (s.refuse r).exit = s.exit := rfl
@[simp] theorem refuse_trace (r : RefusalReason) : (s.refuse r).trace = s.trace := rfl
@[simp] theorem refuse_refused (r : RefusalReason) : (s.refuse r).refused = true := rfl
@[simp] theorem refuse_refusal (r : RefusalReason) : (s.refuse r).refusal = some r := rfl
@[simp] theorem refuse_stuck (r : RefusalReason) : (s.refuse r).stuck = s.stuck := rfl
@[simp] theorem refuse_platform (r : RefusalReason) : (s.refuse r).platform = s.platform := rfl
@[simp] theorem refuse_inputs (r : RefusalReason) : (s.refuse r).inputs = s.inputs := rfl

/-! ## hang -/

@[simp] theorem hang_cfg : (s.hang).cfg = s.cfg := rfl
@[simp] theorem hang_pins : (s.hang).pins = s.pins := rfl
@[simp] theorem hang_sess : (s.hang).sess = s.sess := rfl
@[simp] theorem hang_cause : (s.hang).cause = s.cause := rfl
@[simp] theorem hang_errinfo : (s.hang).errinfo = s.errinfo := rfl
@[simp] theorem hang_exit : (s.hang).exit = s.exit := rfl
@[simp] theorem hang_trace : (s.hang).trace = s.trace := rfl
@[simp] theorem hang_refused : (s.hang).refused = s.refused := rfl
@[simp] theorem hang_refusal : (s.hang).refusal = s.refusal := rfl
@[simp] theorem hang_stuck : (s.hang).stuck = true := rfl
@[simp] theorem hang_platform : (s.hang).platform = s.platform := rfl
@[simp] theorem hang_inputs : (s.hang).inputs = s.inputs := rfl

/-! ## takeException -/

@[simp] theorem takeException_cfg (x : Exn) : (s.takeException x).cfg = s.cfg := rfl
@[simp] theorem takeException_pins (x : Exn) : (s.takeException x).pins = s.pins := rfl
@[simp] theorem takeException_sess (x : Exn) : (s.takeException x).sess = .halted := rfl
@[simp] theorem takeException_cause (x : Exn) : (s.takeException x).cause = x.cause := rfl
@[simp] theorem takeException_errinfo (x : Exn) : (s.takeException x).errinfo = x.errinfo s.errinfo := rfl
@[simp] theorem takeException_exit (x : Exn) : (s.takeException x).exit = some (exitStatus s.cfg x.cause) := rfl
@[simp] theorem takeException_trace (x : Exn) : (s.takeException x).trace = s.trace := rfl
@[simp] theorem takeException_refused (x : Exn) : (s.takeException x).refused = s.refused := rfl
@[simp] theorem takeException_refusal (x : Exn) : (s.takeException x).refusal = s.refusal := rfl
@[simp] theorem takeException_stuck (x : Exn) : (s.takeException x).stuck = s.stuck := rfl
@[simp] theorem takeException_platform (x : Exn) : (s.takeException x).platform = s.platform := rfl
@[simp] theorem takeException_inputs (x : Exn) : (s.takeException x).inputs = s.inputs := rfl

/-! ## answered -/

@[simp] theorem answered_cfg (a : Lines Nat) (b c d : Nat) : (s.answered a b c d).cfg = s.cfg := rfl
@[simp] theorem answered_pins (a : Lines Nat) (b c d : Nat) : (s.answered a b c d).pins = s.pins := rfl
@[simp] theorem answered_sess (a : Lines Nat) (b c d : Nat) : (s.answered a b c d).sess = s.sess := rfl
@[simp] theorem answered_cause (a : Lines Nat) (b c d : Nat) : (s.answered a b c d).cause = s.cause := rfl
@[simp] theorem answered_errinfo (a : Lines Nat) (b c d : Nat) : (s.answered a b c d).errinfo = s.errinfo := rfl
@[simp] theorem answered_exit (a : Lines Nat) (b c d : Nat) : (s.answered a b c d).exit = s.exit := rfl
@[simp] theorem answered_trace (a : Lines Nat) (b c d : Nat) : (s.answered a b c d).trace = s.trace := rfl
@[simp] theorem answered_refused (a : Lines Nat) (b c d : Nat) : (s.answered a b c d).refused = s.refused := rfl
@[simp] theorem answered_refusal (a : Lines Nat) (b c d : Nat) : (s.answered a b c d).refusal = s.refusal := rfl
@[simp] theorem answered_stuck (a : Lines Nat) (b c d : Nat) : (s.answered a b c d).stuck = s.stuck := rfl
@[simp] theorem answered_platform (a : Lines Nat) (b c d : Nat) : (s.answered a b c d).platform = s.platform.after a b c d := rfl
@[simp] theorem answered_inputs (a : Lines Nat) (b c d : Nat) : (s.answered a b c d).inputs = s.inputs := rfl

/-! ## withInputs -/

@[simp] theorem withInputs_cfg (l : List HostInput) : (s.withInputs l).cfg = s.cfg := rfl
@[simp] theorem withInputs_pins (l : List HostInput) : (s.withInputs l).pins = s.pins := rfl
@[simp] theorem withInputs_sess (l : List HostInput) : (s.withInputs l).sess = s.sess := rfl
@[simp] theorem withInputs_cause (l : List HostInput) : (s.withInputs l).cause = s.cause := rfl
@[simp] theorem withInputs_errinfo (l : List HostInput) : (s.withInputs l).errinfo = s.errinfo := rfl
@[simp] theorem withInputs_exit (l : List HostInput) : (s.withInputs l).exit = s.exit := rfl
@[simp] theorem withInputs_trace (l : List HostInput) : (s.withInputs l).trace = s.trace := rfl
@[simp] theorem withInputs_refused (l : List HostInput) : (s.withInputs l).refused = s.refused := rfl
@[simp] theorem withInputs_refusal (l : List HostInput) : (s.withInputs l).refusal = s.refusal := rfl
@[simp] theorem withInputs_stuck (l : List HostInput) : (s.withInputs l).stuck = s.stuck := rfl
@[simp] theorem withInputs_platform (l : List HostInput) : (s.withInputs l).platform = s.platform := rfl
@[simp] theorem withInputs_inputs (l : List HostInput) : (s.withInputs l).inputs = l := rfl

end Sys2Proof.Machine.State
end

