-- ==== Sys2Proof/Laws/Ops.lean ====
section
/-! SUPPORT. The small laws of the shared operations: lines, the oracle, the outcomes of an operation, admission. -/

namespace Sys2Proof.Machine

/-! ## Lines -/

@[simp] theorem linesGet_linesSet {α : Type} (l : Lines α) (i j : Line) (a : α) :
    linesGet (linesSet l i a) j = if j = i then a else linesGet l j := by
  cases i <;> cases j <;> rfl

theorem lines_ext {α : Type} {l m : Lines α} (h : ∀ i, linesGet l i = linesGet m i) : l = m := by
  cases l; cases m
  have h1 := h .clk; have h2 := h .update; have h3 := h .data; have h4 := h .reset
  simp_all [linesGet]

namespace State

variable (s : State)

@[simp] theorem pin_setPin (i j : Line) (p : Pin) : (s.setPin i p).pin j = if j = i then p else s.pin j := by
  simp [pin]

@[simp] theorem pin_setExported (i j : Line) :
    (s.setExported i).pin j = if j = i then { s.pin i with exported := true } else s.pin j := by
  simp [setExported]

@[simp] theorem pin_setDir (i j : Line) (d : Dir) :
    (s.setDir i d).pin j = if j = i then { s.pin i with dir := d, level := none } else s.pin j := by
  simp [setDir]

@[simp] theorem pin_setLevel (i j : Line) (l : Option Bool) :
    (s.setLevel i l).pin j = if j = i then { s.pin i with level := l } else s.pin j := by
  simp [setLevel]

/-- Writing a level leaves which lines are outputs. -/
@[simp] theorem lineIsOutput_setLevel (i j : Line) (l : Option Bool) :
    (s.setLevel i l).lineIsOutput j = s.lineIsOutput j := by
  by_cases h : j = i <;> simp [lineIsOutput, h]

@[simp] theorem pin_emit (e : Event) (j : Line) : (s.emit e).pin j = s.pin j := rfl
@[simp] theorem pin_answered (a : Lines Nat) (b c d : Nat) (j : Line) : (s.answered a b c d).pin j = s.pin j := rfl
@[simp] theorem pin_boot (j : Line) : s.boot.pin j = s.pin j := rfl
@[simp] theorem pin_endSession (j : Line) : s.endSession.pin j = s.pin j := rfl
@[simp] theorem pin_refuse (r : RefusalReason) (j : Line) : (s.refuse r).pin j = s.pin j := rfl
@[simp] theorem pin_hang (j : Line) : s.hang.pin j = s.pin j := rfl
@[simp] theorem pin_takeException (x : Exn) (j : Line) : (s.takeException x).pin j = s.pin j := rfl
@[simp] theorem pin_withInputs (l : List HostInput) (j : Line) : (s.withInputs l).pin j = s.pin j := rfl
@[simp] theorem lineIsOutput_emit (e : Event) (j : Line) : (s.emit e).lineIsOutput j = s.lineIsOutput j := rfl
@[simp] theorem lineIsOutput_answered (a : Lines Nat) (b c d : Nat) (j : Line) :
    (s.answered a b c d).lineIsOutput j = s.lineIsOutput j := rfl

end State

/-! ## The oracle -/

@[simp] theorem feed_answer_after {α : Type} (free : Nat → α) (d : Feed α) (n k : Nat) :
    (d.after n).answer free k = d.answer free (n + k) := by
  simp [Feed.answer, Feed.after, Nat.add_assoc]

@[simp] theorem feed_after_zero {α : Type} (d : Feed α) : d.after 0 = d := by
  simp [Feed.after]

@[simp] theorem feed_after_after {α : Type} (d : Feed α) (m n : Nat) : (d.after m).after n = d.after (m + n) := by
  simp [Feed.after, Nat.add_assoc]

@[simp] theorem linesGet_probesAfter (p : Lines (Feed ProbeAnswer)) (n : Lines Nat) (i : Line) :
    linesGet (probesAfter p n) i = (linesGet p i).after (linesGet n i) := by
  cases i <;> rfl

@[simp] theorem linesGet_linesAll {α : Type} (a : α) (i : Line) : linesGet (linesAll a) i = a := by
  cases i <;> rfl

@[simp] theorem linesGet_countOf (i j : Line) (n : Nat) : linesGet (countOf i n) j = if j = i then n else 0 := by
  simp [countOf]

@[simp] theorem linesGet_linesAdd (a b : Lines Nat) (i : Line) : linesGet (linesAdd a b) i = linesGet a i + linesGet b i := by
  cases i <;> rfl

@[simp] theorem linesAdd_zero (a : Lines Nat) : linesAdd a (linesAll 0) = a := rfl

@[simp] theorem zero_linesAdd (a : Lines Nat) : linesAdd (linesAll 0) a = a := lines_ext (by simp)

@[simp] theorem countOf_add (i : Line) (m n : Nat) : linesAdd (countOf i m) (countOf i n) = countOf i (m + n) :=
  lines_ext fun j => by by_cases h : j = i <;> simp [h]

@[simp] theorem countOf_zero (i : Line) : countOf i 0 = linesAll 0 := lines_ext (by simp)

@[simp] theorem platform_after_zero (p : Platform) : p.after (linesAll 0) 0 0 0 = p := by
  have h : probesAfter p.probes (linesAll 0) = p.probes := lines_ext (by simp)
  simp [Platform.after, h]

@[simp] theorem platform_after_after (p : Platform) (a : Lines Nat) (b c d : Nat) (a' : Lines Nat) (b' c' d' : Nat) :
    (p.after a b c d).after a' b' c' d' = p.after (linesAdd a a') (b + b') (c + c') (d + d') := by
  have h : probesAfter (probesAfter p.probes a) a' = probesAfter p.probes (linesAdd a a') := lines_ext (by simp)
  simp [Platform.after, h]

namespace State

variable (s : State)

@[simp] theorem probeAnswer_answered (a : Lines Nat) (b c d : Nat) (i : Line) (k : Nat) :
    (s.answered a b c d).probeAnswer i k = s.probeAnswer i (linesGet a i + k) := by
  simp [probeAnswer, Platform.after]

@[simp] theorem exportAnswer_answered (a : Lines Nat) (b c d k : Nat) :
    (s.answered a b c d).exportAnswer k = s.exportAnswer (b + k) := by
  simp [exportAnswer, Platform.after]

@[simp] theorem dirAnswer_answered (a : Lines Nat) (b c d k : Nat) :
    (s.answered a b c d).dirAnswer k = s.dirAnswer (c + k) := by
  simp [dirAnswer, Platform.after]

@[simp] theorem writeAnswer_answered (a : Lines Nat) (b c d k : Nat) :
    (s.answered a b c d).writeAnswer k = s.writeAnswer (d + k) := by
  simp [writeAnswer, Platform.after]

@[simp] theorem probeAnswer_emit (e : Event) (i : Line) (k : Nat) : (s.emit e).probeAnswer i k = s.probeAnswer i k := rfl
@[simp] theorem exportAnswer_emit (e : Event) (k : Nat) : (s.emit e).exportAnswer k = s.exportAnswer k := rfl
@[simp] theorem dirAnswer_emit (e : Event) (k : Nat) : (s.emit e).dirAnswer k = s.dirAnswer k := rfl
@[simp] theorem writeAnswer_emit (e : Event) (k : Nat) : (s.emit e).writeAnswer k = s.writeAnswer k := rfl
@[simp] theorem probeAnswer_setPin (j : Line) (p : Pin) (i : Line) (k : Nat) :
    (s.setPin j p).probeAnswer i k = s.probeAnswer i k := rfl
@[simp] theorem exportAnswer_setPin (i : Line) (p : Pin) (k : Nat) :
    (s.setPin i p).exportAnswer k = s.exportAnswer k := rfl
@[simp] theorem dirAnswer_setPin (i : Line) (p : Pin) (k : Nat) : (s.setPin i p).dirAnswer k = s.dirAnswer k := rfl
@[simp] theorem writeAnswer_setPin (i : Line) (p : Pin) (k : Nat) : (s.setPin i p).writeAnswer k = s.writeAnswer k := rfl
@[simp] theorem writeAnswer_setLevel (i : Line) (l : Option Bool) (k : Nat) :
    (s.setLevel i l).writeAnswer k = s.writeAnswer k := rfl

end State

/-- R42: under `Healthy` any number of next accesses is healthy. -/
theorem healthyFor_of_healthy {s : State} (h : s.Healthy) (p d w : Nat) : s.HealthyFor p d w :=
  ⟨fun i k _ => by simp [h.1 i k], fun k _ => (h.2 k).2.1, fun k _ => (h.2 k).2.2⟩

/-- R42: where each line is absent at its next probes and present after, and every other answer is good, one call of
ENSURE_EXPORTED meets a line present after as many requests as that. -/
theorem presentAfter_of_absentFirst {s : State} {m : Lines Nat} (h : s.AbsentFirst m) (ha : s.GoodAccesses) (i : Line) :
    s.PresentAfter i (linesGet m i) :=
  ⟨fun k hk => by simp [h i k, hk], fun k _ => (ha k).1, by simp [h i]⟩

/-- R42: under the same premise a bootstrap meets its lines so. -/
theorem presentAfterEach_of_absentFirst {s : State} {m : Lines Nat} (h : s.AbsentFirst m) (ha : s.GoodAccesses) :
    s.PresentAfterEach m :=
  ⟨fun i => ⟨fun k hk => by simp [h i k, hk], by simp [h i], by simp [h i]⟩, fun k _ => (ha k).1⟩

/-- R42: answers once taken leave each line with as many `ABSENT` answers fewer. -/
theorem absentFirst_answered {s : State} {m : Lines Nat} (h : s.AbsentFirst m) (a : Lines Nat) (b c d : Nat) :
    (s.answered a b c d).AbsentFirst
      { clk := m.clk - a.clk, update := m.update - a.update, data := m.data - a.data, reset := m.reset - a.reset } := by
  intro i k
  rw [State.probeAnswer_answered, h]
  cases i <;> simp only [linesGet] <;> congr 1 <;> apply propext <;> omega

/-- R42: good accesses stay good. -/
theorem goodAccesses_answered {s : State} (h : s.GoodAccesses) (a : Lines Nat) (b c d : Nat) :
    (s.answered a b c d).GoodAccesses := fun k =>
  ⟨by simpa using (h (b + k)).1, by simpa using (h (c + k)).2.1, by simpa using (h (d + k)).2.2⟩

/-! ## Outcomes of an operation -/

@[simp] theorem andThen_ok (s : State) (k : State → Flow) : (Flow.ok s).andThen k = k s := rfl
@[simp] theorem andThen_raise (x : Exn) (s : State) (k : State → Flow) : (Flow.raise x s).andThen k = .raise x s := rfl
@[simp] theorem andThen_hang (s : State) (k : State → Flow) : (Flow.hang s).andThen k = .hang s := rfl
@[simp] theorem andThen_refuse (r : RefusalReason) (s : State) (k : State → Flow) :
    (Flow.refuse r s).andThen k = .refuse r s := rfl

theorem andThen_assoc (m : Flow) (k l : State → Flow) : (m.andThen k).andThen l = m.andThen fun s => (k s).andThen l := by
  cases m <;> rfl

@[simp] theorem finish_ok (s : State) : (Flow.ok s).finish = s := rfl
@[simp] theorem finish_raise (x : Exn) (s : State) : (Flow.raise x s).finish = s.takeException x := rfl
@[simp] theorem finish_hang (s : State) : (Flow.hang s).finish = s.hang := rfl
@[simp] theorem finish_refuse (r : RefusalReason) (s : State) : (Flow.refuse r s).finish = s.refuse r := rfl
@[simp] theorem outcome_eq (m : Flow) : m.outcome = .next m.finish := rfl

/-- An operation on the elements of `l ++ m` is that on `l`, then that on `m`. -/
theorem forEach_append {α : Type} (op : α → State → Flow) (l m : List α) (s : State) :
    forEach op (l ++ m) s = (forEach op l s).andThen (forEach op m) := by
  induction l generalizing s with
  | nil => rfl
  | cons a l ih =>
    simp only [List.cons_append, forEach, andThen_assoc]
    congr 1
    funext t
    exact ih t

/-! ## Admission -/

theorem admission_none {op : Opcode} {s : State} (hc : configValid s.cfg = true) (ha : admits op s.sess = true) :
    admission op s = none := by
  simp [admission, hc, ha]

theorem admission_eq_none_iff (op : Opcode) (s : State) :
    admission op s = none ↔ configValid s.cfg = true ∧ admits op s.sess = true := by
  unfold admission
  cases configValid s.cfg <;> cases admits op s.sess <;> simp

/-- An admitted operation whose checks pass is its body. -/
theorem admitted_run {op : Opcode} {checks : State → Option RefusalReason} {body : State → Flow} {s : State}
    (hc : configValid s.cfg = true) (ha : admits op s.sess = true) (hk : checks s = none) :
    admitted op checks body s = body s := by
  simp [admitted, admission_none hc ha, hk]

/-- The three ways of an admission: a refusal of the configuration or the session, a refusal of a check, the body. -/
theorem admitted_cases (op : Opcode) (checks : State → Option RefusalReason) (body : State → Flow) (s : State) :
    (∃ r, admission op s = some r ∧ admitted op checks body s = .refuse r s) ∨
    (∃ r, admission op s = none ∧ checks s = some r ∧ admitted op checks body s = .refuse r s) ∨
    (configValid s.cfg = true ∧ admits op s.sess = true ∧ checks s = none ∧ admitted op checks body s = body s) := by
  rcases ha : admission op s with _ | r
  · rcases hk : checks s with _ | r
    · obtain ⟨h1, h2⟩ := (admission_eq_none_iff op s).mp ha
      exact .inr (.inr ⟨h1, h2, rfl, by simp [admitted, ha, hk]⟩)
    · exact .inr (.inl ⟨r, rfl, rfl, by simp [admitted, ha, hk]⟩)
  · exact .inl ⟨r, rfl, by simp [admitted, ha]⟩

theorem lineCheck_none {i : Line} {s : State} (h : s.lineIsOutput i = true) : lineCheck i s = none := by
  simp [lineCheck, h]

theorem serialCheck_none {s : State} (hd : s.lineIsOutput .data = true) (hk : s.lineIsOutput .clk = true) :
    serialCheck s = none := by
  simp [serialCheck, hd, hk]

/-- The pin and serializer commands are admitted until the session has halted (R82). -/
theorem admits_direct {op : Opcode} {x : Sess} (hx : x ≠ .halted)
    (ho : op = .ensureExported ∨ op = .setDirection ∨ op = .writeLevel ∨ op = .pulse ∨ op = .sendByte) :
    admits op x = true := by
  rcases ho with h | h | h | h | h <;> subst h <;> cases x <;> simp_all [admits]

end Sys2Proof.Machine
end

