-- ==== Sys2Proof/Laws/Drive.lean ====
section
/-! SUPPORT. Every writing command is a list of level writes. `driveAll` performs such a list; PULSE, SEND_BYTE and the frame
are instances (R76, R77, R81), and what a list of writes does is said once: all succeed, one fails, one hangs. -/

namespace Sys2Proof.Machine

/-- Level writes, one after the other. -/
def driveAll (l : List (Line × Bool)) : State → Flow := forEach (fun p => driveLevel p.1 p.2) l

/-- The event of a level write. -/
def writeEvent (p : Line × Bool) : Event := .write p.1 p.2

/-- The state after a level write that answered `OK` (R75). -/
def State.wrote (s : State) (p : Line × Bool) : State :=
  ((s.emit (writeEvent p)).answered (linesAll 0) 0 0 1).setLevel p.1 (some p.2)

/-- The three ways of a level write (R75). -/
theorem driveLevel_cases (i : Line) (b : Bool) (s : State) :
    (s.writeAnswer 0 = .ok ∧ driveLevel i b s = .ok (s.wrote (i, b))) ∨
    (∃ e, s.writeAnswer 0 = .fail e ∧
      driveLevel i b s = .raise (.io (.os e)) (((s.emit (.write i b)).answered (linesAll 0) 0 0 1).setLevel i none)) ∨
    (s.writeAnswer 0 = .hang ∧ driveLevel i b s = .hang ((s.emit (.write i b)).answered (linesAll 0) 0 0 1)) := by
  rcases h : s.writeAnswer 0 with _ | e | _ <;> simp [driveLevel, pinWrite, h, State.wrote, writeEvent]

@[simp] theorem wrote_cfg (s : State) (p : Line × Bool) : (s.wrote p).cfg = s.cfg := rfl
@[simp] theorem wrote_sess (s : State) (p : Line × Bool) : (s.wrote p).sess = s.sess := rfl
@[simp] theorem wrote_trace (s : State) (p : Line × Bool) : (s.wrote p).trace = s.trace ++ [writeEvent p] := rfl
@[simp] theorem wrote_lineIsOutput (s : State) (p : Line × Bool) (j : Line) :
    (s.wrote p).lineIsOutput j = s.lineIsOutput j := by
  simp [State.wrote]
@[simp] theorem wrote_writeAnswer (s : State) (p : Line × Bool) (k : Nat) :
    (s.wrote p).writeAnswer k = s.writeAnswer (1 + k) := by
  simp [State.wrote]

/-- What a level write leaves to the next operation: the admission and the outputs are as before. -/
structure SameGate (s t : State) : Prop where
  cfg : t.cfg = s.cfg
  sess : t.sess = s.sess
  output : ∀ j, t.lineIsOutput j = s.lineIsOutput j

theorem SameGate.rfl' (s : State) : SameGate s s := ⟨rfl, rfl, fun _ => rfl⟩

theorem SameGate.trans' {s t u : State} (h : SameGate s t) (k : SameGate t u) : SameGate s u :=
  ⟨k.cfg.trans h.cfg, k.sess.trans h.sess, fun j => (k.output j).trans (h.output j)⟩

theorem sameGate_wrote (s : State) (p : Line × Bool) : SameGate s (s.wrote p) := ⟨rfl, rfl, by simp⟩

/-- A list of writes that completes leaves the gate as it was. -/
theorem sameGate_driveAll {l : List (Line × Bool)} {s t : State} (h : driveAll l s = .ok t) : SameGate s t := by
  induction l generalizing s with
  | nil =>
    simp [driveAll, forEach] at h
    exact h ▸ SameGate.rfl' s
  | cons p l ih =>
    simp only [driveAll, forEach] at h
    rcases driveLevel_cases p.1 p.2 s with ⟨_, hd⟩ | ⟨e, _, hd⟩ | ⟨_, hd⟩ <;> rw [hd] at h <;> simp at h
    exact (sameGate_wrote s p).trans' (ih h)

/-- Two operations that agree where the gate is as in `s` agree after a list of writes from `s`. -/
theorem driveAll_andThen_congr {l : List (Line × Bool)} {s : State} {k k' : State → Flow}
    (h : ∀ t, SameGate s t → k t = k' t) : (driveAll l s).andThen k = (driveAll l s).andThen k' := by
  rcases hd : driveAll l s with t | ⟨x, t⟩ | t | ⟨r, t⟩ <;> simp
  exact h t (sameGate_driveAll hd)

theorem driveAll_append (l m : List (Line × Bool)) (s : State) :
    driveAll (l ++ m) s = (driveAll l s).andThen (driveAll m) := forEach_append _ l m s

theorem driveAll_single (i : Line) (b : Bool) (s : State) : driveAll [(i, b)] s = driveLevel i b s := by
  simp only [driveAll, forEach]
  rcases driveLevel i b s with t | ⟨x, t⟩ | t | ⟨r, t⟩ <;> rfl

/-! ## The writing operations as lists of writes -/

/-- R76: the writes of a pulse. -/
def pulseWrites (i : Line) : List (Line × Bool) := [(i, true), (i, false)]

/-- R77: the writes of one bit. -/
def bitWrites (b : Bool) : List (Line × Bool) := (.data, b) :: pulseWrites .clk

/-- R77: the 24 writes of a byte. -/
def byteWrites (v : Byte) : List (Line × Bool) := (List.range 8).flatMap fun k => bitWrites (v.getLsbD k)

/-- R81: the 122 writes of a frame of five bytes. -/
def frameWrites (frame : List Byte) : List (Line × Bool) := frame.flatMap byteWrites ++ pulseWrites .update

theorem writeLevel_eq_driveAll {i : Line} {b : Bool} {s : State} (hc : configValid s.cfg = true) (hs : s.sess ≠ .halted)
    (ho : s.lineIsOutput i = true) : writeLevel i b s = driveAll [(i, b)] s := by
  rw [driveAll_single, writeLevel, admitted_run hc (admits_direct hs (by simp)) (lineCheck_none ho)]

theorem pulse_eq_driveAll {i : Line} {s : State} (hc : configValid s.cfg = true) (hs : s.sess ≠ .halted)
    (ho : s.lineIsOutput i = true) : pulse i s = driveAll (pulseWrites i) s := by
  rw [pulse, admitted_run hc (admits_direct hs (by simp)) (lineCheck_none ho), writeLevel_eq_driveAll hc hs ho,
    show pulseWrites i = [(i, true)] ++ [(i, false)] from rfl, driveAll_append]
  refine driveAll_andThen_congr fun t g => ?_
  exact writeLevel_eq_driveAll (g.cfg ▸ hc) (g.sess ▸ hs) ((g.output i).trans ho)

theorem sendBit_eq_driveAll {b : Bool} {s : State} (hc : configValid s.cfg = true) (hs : s.sess ≠ .halted)
    (hd : s.lineIsOutput .data = true) (hk : s.lineIsOutput .clk = true) : sendBit b s = driveAll (bitWrites b) s := by
  rw [sendBit, writeLevel_eq_driveAll hc hs hd, show bitWrites b = [(.data, b)] ++ pulseWrites .clk from rfl,
    driveAll_append]
  refine driveAll_andThen_congr fun t g => ?_
  exact pulse_eq_driveAll (g.cfg ▸ hc) (g.sess ▸ hs) ((g.output .clk).trans hk)

theorem sendBits_eq_driveAll {n : Nat} {v : Byte} {s : State} (hc : configValid s.cfg = true) (hs : s.sess ≠ .halted)
    (hd : s.lineIsOutput .data = true) (hk : s.lineIsOutput .clk = true) :
    sendBits n v s = driveAll ((List.range n).flatMap fun k => bitWrites (v.getLsbD k)) s := by
  induction n generalizing v s with
  | zero => rfl
  | succ n ih =>
    rw [sendBits, sendBit_eq_driveAll hc hs hd hk, List.range_succ_eq_map, List.flatMap_cons, driveAll_append]
    refine driveAll_andThen_congr fun t g => ?_
    rw [ih (g.cfg ▸ hc) (g.sess ▸ hs) ((g.output .data).trans hd) ((g.output .clk).trans hk), List.flatMap_map]
    congr 2
    funext k
    simp [BitVec.getLsbD_ushiftRight, Nat.add_comm]

/-- R77: SEND_BYTE is its 24 writes. -/
theorem sendByte_eq_driveAll {v : Byte} {s : State} (hc : configValid s.cfg = true) (hs : s.sess ≠ .halted)
    (hd : s.lineIsOutput .data = true) (hk : s.lineIsOutput .clk = true) : sendByte v s = driveAll (byteWrites v) s := by
  rw [sendByte, admitted_run hc (admits_direct hs (by simp)) (serialCheck_none hd hk), sendBits_eq_driveAll hc hs hd hk,
    byteWrites]

theorem sendBytes_eq_driveAll {frame : List Byte} {s : State} (hc : configValid s.cfg = true) (hs : s.sess ≠ .halted)
    (hd : s.lineIsOutput .data = true) (hk : s.lineIsOutput .clk = true) :
    forEach sendByte frame s = driveAll (frame.flatMap byteWrites) s := by
  induction frame generalizing s with
  | nil => rfl
  | cons v frame ih =>
    rw [forEach, sendByte_eq_driveAll hc hs hd hk, List.flatMap_cons, driveAll_append]
    refine driveAll_andThen_congr fun t g => ?_
    exact ih (g.cfg ▸ hc) (g.sess ▸ hs) ((g.output .data).trans hd) ((g.output .clk).trans hk)

/-- R81: the frame is its writes. -/
theorem sendFrame_eq_driveAll {frame : List Byte} {s : State} (hc : configValid s.cfg = true) (hs : s.sess ≠ .halted)
    (ho : s.AllOutputs) : sendFrame frame s = driveAll (frameWrites frame) s := by
  rw [sendFrame, sendBytes_eq_driveAll hc hs (ho .data) (ho .clk), frameWrites, driveAll_append]
  refine driveAll_andThen_congr fun t g => ?_
  exact pulse_eq_driveAll (g.cfg ▸ hc) (g.sess ▸ hs) ((g.output .update).trans (ho .update))

/-! ## What a list of writes does -/

/-- The state after some writes that all answered `OK`. -/
def State.wroteAll (s : State) (l : List (Line × Bool)) : State :=
  { s with
    trace := s.trace ++ l.map writeEvent
    platform := s.platform.after (linesAll 0) 0 0 l.length
    pins := drivenPins s.pins (l.map writeEvent) }

theorem wroteAll_nil (s : State) : s.wroteAll [] = s := by
  simp [State.wroteAll, drivenPins]

theorem wroteAll_cons (s : State) (p : Line × Bool) (l : List (Line × Bool)) :
    s.wroteAll (p :: l) = (s.wrote p).wroteAll l := by
  simp [State.wroteAll, State.wrote, State.setLevel, State.setPin, State.answered, State.emit, State.pin, writeEvent,
    drivenPins, Nat.add_comm]

/-- The first writes of a list all answer `OK`: it goes on from the state after them. -/
theorem driveAll_split {l m : List (Line × Bool)} {s : State} (h : s.NextWritesOk l.length) :
    driveAll (l ++ m) s = driveAll m (s.wroteAll l) := by
  induction l generalizing s with
  | nil => rw [wroteAll_nil]; rfl
  | cons p l ih =>
    have h0 : s.writeAnswer 0 = .ok := h 0 (by simp)
    have h1 : (s.wrote p).NextWritesOk l.length := fun k hk => by
      rw [wrote_writeAnswer]; exact h (1 + k) (by simp; omega)
    rw [wroteAll_cons, ← ih h1]
    rcases driveLevel_cases p.1 p.2 s with ⟨_, hd⟩ | ⟨e, he, _⟩ | ⟨he, _⟩
    · simp [driveAll, forEach, hd]
    · simp [h0] at he
    · simp [h0] at he

/-- All writes of a list answer `OK`. -/
theorem driveAll_ok {l : List (Line × Bool)} {s : State} (h : s.NextWritesOk l.length) :
    driveAll l s = .ok (s.wroteAll l) := by
  have := driveAll_split (m := []) h
  simpa [driveAll, forEach] using this

@[simp] theorem wroteAll_writeAnswer (s : State) (l : List (Line × Bool)) (k : Nat) :
    (s.wroteAll l).writeAnswer k = s.writeAnswer (l.length + k) := by
  simp [State.wroteAll, State.writeAnswer, Platform.after]

/-- The write after the first `k` of a list fails: nothing after it is made (R97 (e), (f)). -/
theorem driveAll_fail {l m : List (Line × Bool)} {p : Line × Bool} {s : State} {e : OsError}
    (h : s.NextWritesOk l.length) (hf : s.writeAnswer l.length = .fail e) :
    driveAll (l ++ p :: m) s =
      .raise (.io (.os e)) ((((s.wroteAll l).emit (writeEvent p)).answered (linesAll 0) 0 0 1).setLevel p.1 none) := by
  rw [driveAll_split h]
  have h0 : (s.wroteAll l).writeAnswer 0 = .fail e := by simpa using hf
  rcases driveLevel_cases p.1 p.2 (s.wroteAll l) with ⟨he, _⟩ | ⟨e', he, hd⟩ | ⟨he, _⟩ <;> rw [h0] at he <;> simp at he
  subst he
  simp [driveAll, forEach, hd, writeEvent]

/-- The write after the first `k` of a list hangs: its event is the last (R99). -/
theorem driveAll_hang {l m : List (Line × Bool)} {p : Line × Bool} {s : State}
    (h : s.NextWritesOk l.length) (hf : s.writeAnswer l.length = .hang) :
    driveAll (l ++ p :: m) s = .hang (((s.wroteAll l).emit (writeEvent p)).answered (linesAll 0) 0 0 1) := by
  rw [driveAll_split h]
  have h0 : (s.wroteAll l).writeAnswer 0 = .hang := by simpa using hf
  rcases driveLevel_cases p.1 p.2 (s.wroteAll l) with ⟨he, _⟩ | ⟨e', he, hd⟩ | ⟨_, hd⟩
  · simp [h0] at he
  · simp [h0] at he
  · simp [driveAll, forEach, hd, writeEvent]

/-! ## The event lists of the rules are those of the writes -/

theorem pulseEvents_eq (i : Line) : pulseEvents i = (pulseWrites i).map writeEvent := rfl

theorem byteEvents_eq (v : Byte) : byteEvents v = (byteWrites v).map writeEvent := by
  simp [byteEvents, byteWrites, List.map_flatMap, bitEvents, bitWrites, pulseEvents_eq, writeEvent]

theorem frameEvents_eq (frame : List Byte) : frameEvents frame = (frameWrites frame).map writeEvent := by
  simp [frameEvents, frameWrites, List.map_flatMap, funext byteEvents_eq, pulseEvents_eq]

@[simp] theorem byteWrites_length (v : Byte) : (byteWrites v).length = 24 := rfl

theorem frameWrites_length (f phase : Nat) (d : Bool) : (frameWrites (frameOf f phase d)).length = 122 := rfl

end Sys2Proof.Machine
end

