-- ==== Sys2Proof/Laws/Encoding.lean ====
section
/-! SUPPORT. A command word is the concatenation of its eight fields (R62), and a row of the table matches it where each field
is as the row asks (R64). -/

namespace Sys2Proof

/-- R62: the word of eight fields, RSV among them. -/
def joinFields (opc byte : BitVec 8) (pin : BitVec 2) (lvl pd : BitVec 1) (rsv : BitVec 4) (phase : BitVec 8)
    (freq : BitVec 32) : CommandWord :=
  opc ++ byte ++ pin ++ lvl ++ pd ++ rsv ++ phase ++ freq

theorem packWord_eq (opc byte : BitVec 8) (pin : BitVec 2) (lvl pd : BitVec 1) (phase : BitVec 8) (freq : BitVec 32) :
    packWord opc byte pin lvl pd phase freq = joinFields opc byte pin lvl pd 0 phase freq := rfl

section Fields

variable (opc byte : BitVec 8) (pin : BitVec 2) (lvl pd : BitVec 1) (rsv : BitVec 4) (phase : BitVec 8) (freq : BitVec 32)

theorem joinFields_getLsbD (k : Nat) :
    (joinFields opc byte pin lvl pd rsv phase freq).getLsbD k =
      if k < 32 then freq.getLsbD k else if k < 40 then phase.getLsbD (k - 32) else if k < 44 then rsv.getLsbD (k - 40)
      else if k < 45 then pd.getLsbD (k - 44) else if k < 46 then lvl.getLsbD (k - 45)
      else if k < 48 then pin.getLsbD (k - 46) else if k < 56 then byte.getLsbD (k - 48) else opc.getLsbD (k - 56) := by
  have lt : ∀ a b : Nat, a ≤ k → (k - a < b ↔ k < a + b) := by omega
  have sub : ∀ a b : Nat, k - a - b = k - (a + b) := by omega
  simp only [joinFields, BitVec.getLsbD_append, sub]
  split_ifs <;> first | rfl | omega

/-- The bits `a` to `a + n - 1` of a word of which they are a field. -/
theorem extract_field {n : Nat} {w : CommandWord} {x : BitVec n} {a : Nat}
    (h : ∀ k, k < n → w.getLsbD (a + k) = x.getLsbD k) : w.extractLsb' a n = x := by
  apply BitVec.eq_of_getLsbD_eq
  intro k hk
  simp [hk, h k hk]

@[simp] theorem fieldOpc_join : fieldOpc (joinFields opc byte pin lvl pd rsv phase freq) = opc :=
  extract_field fun k hk => by
    rw [joinFields_getLsbD]; split_ifs <;> first | omega | (congr 1; omega)

@[simp] theorem fieldByte_join : fieldByte (joinFields opc byte pin lvl pd rsv phase freq) = byte :=
  extract_field fun k hk => by
    rw [joinFields_getLsbD]; split_ifs <;> first | omega | (congr 1; omega)

@[simp] theorem fieldPin_join : fieldPin (joinFields opc byte pin lvl pd rsv phase freq) = pin :=
  extract_field fun k hk => by
    rw [joinFields_getLsbD]; split_ifs <;> first | omega | (congr 1; omega)

@[simp] theorem fieldLvl_join : fieldLvl (joinFields opc byte pin lvl pd rsv phase freq) = lvl :=
  extract_field fun k hk => by
    rw [joinFields_getLsbD]; split_ifs <;> first | omega | (congr 1; omega)

@[simp] theorem fieldPd_join : fieldPd (joinFields opc byte pin lvl pd rsv phase freq) = pd :=
  extract_field fun k hk => by
    rw [joinFields_getLsbD]; split_ifs <;> first | omega | (congr 1; omega)

@[simp] theorem fieldRsv_join : fieldRsv (joinFields opc byte pin lvl pd rsv phase freq) = rsv :=
  extract_field fun k hk => by
    rw [joinFields_getLsbD]; split_ifs <;> first | omega | (congr 1; omega)

@[simp] theorem fieldPhase_join : fieldPhase (joinFields opc byte pin lvl pd rsv phase freq) = phase :=
  extract_field fun k hk => by
    rw [joinFields_getLsbD]; split_ifs <;> first | omega | (congr 1; omega)

@[simp] theorem fieldFreq_join : fieldFreq (joinFields opc byte pin lvl pd rsv phase freq) = freq :=
  extract_field fun k hk => by
    rw [joinFields_getLsbD]; split_ifs <;> first | omega | (congr 1; omega)

end Fields

/-- R62: a word is made of its fields. -/
theorem join_fields (w : CommandWord) :
    joinFields (fieldOpc w) (fieldByte w) (fieldPin w) (fieldLvl w) (fieldPd w) (fieldRsv w) (fieldPhase w) (fieldFreq w) =
      w := by
  apply BitVec.eq_of_getLsbD_eq
  intro k hk
  rw [joinFields_getLsbD]
  split_ifs <;>
    simp only [fieldOpc, fieldByte, fieldPin, fieldLvl, fieldPd, fieldRsv, fieldPhase, fieldFreq,
      BitVec.getLsbD_extractLsb'] <;>
    (rw [decide_eq_true (by omega), Bool.true_and]; congr 1; omega)

theorem join_and_join (o o' b b' : BitVec 8) (p p' : BitVec 2) (l l' d d' : BitVec 1) (r r' : BitVec 4) (h h' : BitVec 8)
    (f f' : BitVec 32) :
    joinFields o b p l d r h f &&& joinFields o' b' p' l' d' r' h' f' =
      joinFields (o &&& o') (b &&& b') (p &&& p') (l &&& l') (d &&& d') (r &&& r') (h &&& h') (f &&& f') := by
  apply BitVec.eq_of_getLsbD_eq
  intro k hk
  simp only [BitVec.getLsbD_and, joinFields_getLsbD]
  split_ifs <;> rfl

/-- Two words are equal where their fields are. -/
theorem join_inj {o o' b b' : BitVec 8} {p p' : BitVec 2} {l l' d d' : BitVec 1} {r r' : BitVec 4} {h h' : BitVec 8}
    {f f' : BitVec 32} :
    joinFields o b p l d r h f = joinFields o' b' p' l' d' r' h' f' ↔
      o = o' ∧ b = b' ∧ p = p' ∧ l = l' ∧ d = d' ∧ r = r' ∧ h = h' ∧ f = f' := by
  refine ⟨fun e => ?_, fun ⟨e1, e2, e3, e4, e5, e6, e7, e8⟩ => by rw [e1, e2, e3, e4, e5, e6, e7, e8]⟩
  exact ⟨by simpa using congrArg fieldOpc e, by simpa using congrArg fieldByte e, by simpa using congrArg fieldPin e,
    by simpa using congrArg fieldLvl e, by simpa using congrArg fieldPd e, by simpa using congrArg fieldRsv e,
    by simpa using congrArg fieldPhase e, by simpa using congrArg fieldFreq e⟩

/-- A row matches where each field under its mask is the field of its match word (R65). -/
theorem matchesWord_iff_fields (op : Opcode) (w : CommandWord) :
    op.matchesWord w = true ↔
      fieldOpc w &&& fieldOpc op.maskBits = fieldOpc op.matchBits ∧
      fieldByte w &&& fieldByte op.maskBits = fieldByte op.matchBits ∧
      fieldPin w &&& fieldPin op.maskBits = fieldPin op.matchBits ∧
      fieldLvl w &&& fieldLvl op.maskBits = fieldLvl op.matchBits ∧
      fieldPd w &&& fieldPd op.maskBits = fieldPd op.matchBits ∧
      fieldRsv w &&& fieldRsv op.maskBits = fieldRsv op.matchBits ∧
      fieldPhase w &&& fieldPhase op.maskBits = fieldPhase op.matchBits ∧
      fieldFreq w &&& fieldFreq op.maskBits = fieldFreq op.matchBits := by
  rw [← join_inj, ← join_and_join, join_fields, join_fields, join_fields, Opcode.matchesWord, beq_iff_eq]

/-- What a row asks of each field (R64): the opcode, the fixed level, the unused fields 0. -/
structure RowFields (op : Opcode) (w : CommandWord) : Prop where
  opc : fieldOpc w = op.code
  byte : op ≠ .sendByte → fieldByte w = 0
  pin : op ≠ .ensureExported → op ≠ .setDirection → op ≠ .writeLevel → op ≠ .pulse → fieldPin w = 0
  lvl : op ≠ .setDirection → op ≠ .writeLevel → fieldLvl w = 0
  out : op = .setDirection → fieldLvl w = 1
  pd : op ≠ .loadFrequency → fieldPd w = 0
  rsv : fieldRsv w = 0
  phase : op ≠ .loadFrequency → op ≠ .setFreq → fieldPhase w = 0
  freq : op ≠ .loadFrequency → op ≠ .setFreq → fieldFreq w = 0

/-! The fields of the match and mask columns of R64. -/

theorem fieldOpc_mask (op : Opcode) : fieldOpc op.maskBits = BitVec.allOnes 8 := by cases op <;> rfl
theorem fieldRsv_mask (op : Opcode) : fieldRsv op.maskBits = BitVec.allOnes 4 := by cases op <;> rfl
theorem fieldByte_mask (op : Opcode) :
    fieldByte op.maskBits = if op = .sendByte then 0 else BitVec.allOnes 8 := by cases op <;> rfl
theorem fieldPin_mask (op : Opcode) :
    fieldPin op.maskBits =
      if op = .ensureExported ∨ op = .setDirection ∨ op = .writeLevel ∨ op = .pulse then 0 else BitVec.allOnes 2 := by
  cases op <;> rfl
theorem fieldLvl_mask (op : Opcode) :
    fieldLvl op.maskBits = if op = .writeLevel then 0 else BitVec.allOnes 1 := by cases op <;> rfl
theorem fieldPd_mask (op : Opcode) :
    fieldPd op.maskBits = if op = .loadFrequency then 0 else BitVec.allOnes 1 := by cases op <;> rfl
theorem fieldPhase_mask (op : Opcode) :
    fieldPhase op.maskBits = if op = .loadFrequency ∨ op = .setFreq then 0 else BitVec.allOnes 8 := by cases op <;> rfl
theorem fieldFreq_mask (op : Opcode) :
    fieldFreq op.maskBits = if op = .loadFrequency ∨ op = .setFreq then 0 else BitVec.allOnes 32 := by cases op <;> rfl

theorem fieldOpc_match (op : Opcode) : fieldOpc op.matchBits = op.code := by cases op <;> rfl
theorem fieldByte_match (op : Opcode) : fieldByte op.matchBits = 0 := by cases op <;> rfl
theorem fieldPin_match (op : Opcode) : fieldPin op.matchBits = 0 := by cases op <;> rfl
theorem fieldLvl_match (op : Opcode) : fieldLvl op.matchBits = if op = .setDirection then 1 else 0 := by
  cases op <;> rfl
theorem fieldPd_match (op : Opcode) : fieldPd op.matchBits = 0 := by cases op <;> rfl
theorem fieldRsv_match (op : Opcode) : fieldRsv op.matchBits = 0 := by cases op <;> rfl
theorem fieldPhase_match (op : Opcode) : fieldPhase op.matchBits = 0 := by cases op <;> rfl
theorem fieldFreq_match (op : Opcode) : fieldFreq op.matchBits = 0 := by cases op <;> rfl

/-- A field under a mask of zeros says nothing, under a mask of ones everything. -/
theorem and_mask_eq_zero {n : Nat} (c : Prop) [Decidable c] (x : BitVec n) :
    x &&& (if c then 0 else BitVec.allOnes n) = 0 ↔ (¬ c → x = 0) := by
  by_cases h : c <;> simp [h]

/-- R64: a row's match and mask say exactly what the row asks of each field. -/
theorem matchesWord_iff (op : Opcode) (w : CommandWord) : op.matchesWord w = true ↔ RowFields op w := by
  rw [matchesWord_iff_fields, fieldOpc_mask, fieldByte_mask, fieldPin_mask, fieldPd_mask, fieldRsv_mask, fieldPhase_mask,
    fieldFreq_mask, fieldOpc_match, fieldByte_match, fieldPin_match, fieldPd_match, fieldRsv_match, fieldPhase_match,
    fieldFreq_match, and_mask_eq_zero, and_mask_eq_zero, and_mask_eq_zero, and_mask_eq_zero, and_mask_eq_zero,
    BitVec.and_allOnes, BitVec.and_allOnes, fieldLvl_mask, fieldLvl_match]
  constructor
  · rintro ⟨h1, h2, h3, h4, h5, h6, h7, h8⟩
    exact ⟨h1, h2, fun a b c d => h3 (by simp [a, b, c, d]), fun a b => by rwa [if_neg b, if_neg a, BitVec.and_allOnes] at h4,
      fun a => by rwa [if_neg (by simp [a]), if_pos a, BitVec.and_allOnes] at h4, h5, h6, fun a b => h7 (by simp [a, b]), fun a b => h8 (by simp [a, b])⟩
  · rintro ⟨h1, h2, h3, h4, h4', h5, h6, h7, h8⟩
    refine ⟨h1, h2, fun a => h3 ?_ ?_ ?_ ?_, ?_, h5, h6, fun a => h7 ?_ ?_, fun a => h8 ?_ ?_⟩ <;>
      first
        | (rintro rfl; simp at a)
        | (by_cases e : op = .setDirection
           · simp [h4' e, e]
           · by_cases e' : op = .writeLevel
             · simp [e']
             · simp [h4 e e', e])

end Sys2Proof
end

