-- ==== Sys2Proof/Laws/PerInstr.lean ====
section
/-! SUPPORT. Facts about every instruction as syntax, one lemma per constructor. -/

namespace Sys2Proof

/-- R62: the encoder's words have RSV 0 and each field as given. -/
theorem rowFields_pack {op : Opcode} {byte : BitVec 8} {pin : BitVec 2} {lvl pd : BitVec 1} {phase : BitVec 8}
    {freq : BitVec 32} (hb : op ≠ .sendByte → byte = 0)
    (hp : op ≠ .ensureExported → op ≠ .setDirection → op ≠ .writeLevel → op ≠ .pulse → pin = 0)
    (hl : op ≠ .setDirection → op ≠ .writeLevel → lvl = 0) (ho : op = .setDirection → lvl = 1)
    (hd : op ≠ .loadFrequency → pd = 0) (hh : op ≠ .loadFrequency → op ≠ .setFreq → phase = 0)
    (hf : op ≠ .loadFrequency → op ≠ .setFreq → freq = 0) :
    RowFields op (packWord op.code byte pin lvl pd phase freq) := by
  rw [packWord_eq]
  exact ⟨by simp, by simpa using hb, by simpa using hp, by simpa using hl, by simpa using ho, by simpa using hd, by simp,
    by simpa using hh, by simpa using hf⟩

namespace Laws.RowOfEncoding

/-- R64: the word of an instruction matches the instruction's own row. -/
def Statement (i : Instr) : Prop := i.opcode.matchesWord (encode i) = true

theorem ensureExported (l : Line) : Statement (.ensureExported l) :=
  (matchesWord_iff _ _).mpr (rowFields_pack (by simp [Instr.opcode]) (by simp [Instr.opcode]) (by simp [Instr.opcode])
    (by simp [Instr.opcode]) (by simp) (by simp) (by simp))

theorem setDirection (l : Line) : Statement (.setDirection l) :=
  (matchesWord_iff _ _).mpr (rowFields_pack (by simp [Instr.opcode]) (by simp [Instr.opcode]) (by simp [Instr.opcode])
    (by simp [Instr.opcode]) (by simp) (by simp) (by simp))

theorem writeLevel (l : Line) (b : Bool) : Statement (.writeLevel l b) :=
  (matchesWord_iff _ _).mpr (rowFields_pack (by simp [Instr.opcode]) (by simp [Instr.opcode]) (by simp [Instr.opcode])
    (by simp [Instr.opcode]) (by simp) (by simp) (by simp))

theorem pulse (l : Line) : Statement (.pulse l) :=
  (matchesWord_iff _ _).mpr (rowFields_pack (by simp [Instr.opcode]) (by simp [Instr.opcode]) (by simp [Instr.opcode])
    (by simp [Instr.opcode]) (by simp) (by simp) (by simp))

theorem sendByte (v : Byte) : Statement (.sendByte v) :=
  (matchesWord_iff _ _).mpr (rowFields_pack (by simp [Instr.opcode]) (by simp) (by simp) (by simp [Instr.opcode])
    (by simp) (by simp) (by simp))

theorem loadFrequency (f p : Nat) (d : Bool) : Statement (.loadFrequency f p d) :=
  (matchesWord_iff _ _).mpr (rowFields_pack (by simp) (by simp) (by simp) (by simp [Instr.opcode])
    (by simp [Instr.opcode]) (by simp [Instr.opcode]) (by simp [Instr.opcode]))

theorem initializeLines : Statement .initializeLines :=
  (matchesWord_iff _ _).mpr (rowFields_pack (by simp) (by simp) (by simp) (by simp [Instr.opcode]) (by simp) (by simp)
    (by simp))

theorem setFreq (f p : Nat) : Statement (.setFreq f p) :=
  (matchesWord_iff _ _).mpr (rowFields_pack (by simp) (by simp) (by simp) (by simp [Instr.opcode]) (by simp)
    (by simp [Instr.opcode]) (by simp [Instr.opcode]))

theorem shutdown : Statement .shutdown :=
  (matchesWord_iff _ _).mpr (rowFields_pack (by simp) (by simp) (by simp) (by simp [Instr.opcode]) (by simp) (by simp)
    (by simp))

end Laws.RowOfEncoding

end Sys2Proof
end

