-- ==== Sys2Proof/Laws/Progress.lean ====
section
/-! SUPPORT. What every operation can do, said once: the three endings of the export loop and of a direction write, and what no
operation touches (`Progress`). -/

namespace Sys2Proof.Machine

/-! ## The endings of the shared operations -/

/-- The state after `m` export requests of a line, the platform having answered (R73). -/
def State.requested (s : State) (i : Line) (m : Nat) (p : Platform) : State :=
  { s with trace := s.trace ++ List.replicate m (.exportReq i), platform := p }

theorem requested_requested (s : State) (i : Line) (m n : Nat) (p q : Platform) :
    (s.requested i m p).requested i n q = s.requested i (m + n) q := by
  simp only [State.requested, List.append_assoc, List.replicate_append_replicate]

/-- R73: the loop makes at most `left` requests, and then the line is present, an `E_IO` is raised, or an access hangs. -/
theorem exportLoop_cases (i : Line) (left : Nat) (s : State) :
    ∃ m ≤ left, ∃ p, exportLoop i left s = .ok ((s.requested i m p).setExported i) ∨
      (∃ info, exportLoop i left s = .raise (.io info) (s.requested i m p)) ∨
      exportLoop i left s = .hang (s.requested i m p) := by
  have h0 : s.answered (countOf i 1) 0 0 0 = s.requested i 0 (s.platform.after (countOf i 1) 0 0 0) := by simp [State.answered, State.requested]
  have h1 : ((s.answered (countOf i 1) 0 0 0).emit (.exportReq i)).answered (linesAll 0) 1 0 0 =
      s.requested i 1 (s.platform.after (countOf i 1) 1 0 0) := by
    simp [State.answered, State.emit, State.requested]
  induction left generalizing s with
  | zero =>
    refine ⟨0, le_rfl, s.platform.after (countOf i 1) 0 0 0, ?_⟩
    rcases h : s.probeAnswer i 0 with _ | _ | e | _ <;> simp [exportLoop, pinProbe, h, h0]
  | succ left ih =>
    rcases h : s.probeAnswer i 0 with _ | _ | e | _
    · exact ⟨0, by omega, s.platform.after (countOf i 1) 0 0 0, .inl (by simp [exportLoop, pinProbe, h, h0])⟩
    · rcases hx : s.exportAnswer 0 with _ | _ | e | _
      · obtain ⟨m, hm, p, hr⟩ := ih (s.requested i 1 (s.platform.after (countOf i 1) 1 0 0))
          (by simp [State.answered, State.requested]) (by simp [State.answered, State.emit, State.requested])
        refine ⟨1 + m, by omega, p, ?_⟩
        rw [requested_requested] at hr
        simpa [exportLoop, pinProbe, h, pinExport, hx, h1, delay] using hr
      · obtain ⟨m, hm, p, hr⟩ := ih (s.requested i 1 (s.platform.after (countOf i 1) 1 0 0))
          (by simp [State.answered, State.requested]) (by simp [State.answered, State.emit, State.requested])
        refine ⟨1 + m, by omega, p, ?_⟩
        rw [requested_requested] at hr
        simpa [exportLoop, pinProbe, h, pinExport, hx, h1, delay] using hr
      · exact ⟨1, by omega, s.platform.after (countOf i 1) 1 0 0,
          .inr (.inl ⟨.os e, by simp [exportLoop, pinProbe, h, pinExport, hx, h1]⟩)⟩
      · exact ⟨1, by omega, s.platform.after (countOf i 1) 1 0 0, .inr (.inr (by simp [exportLoop, pinProbe, h, pinExport, hx, h1]))⟩
    · exact ⟨0, by omega, s.platform.after (countOf i 1) 0 0 0, .inr (.inl ⟨.os e, by simp [exportLoop, pinProbe, h, h0]⟩)⟩
    · exact ⟨0, by omega, s.platform.after (countOf i 1) 0 0 0, .inr (.inr (by simp [exportLoop, pinProbe, h, h0]))⟩

/-- R73: `m` absent probes, each followed by a good request, leave the loop with `m` requests fewer. -/
theorem exportLoop_absent (i : Line) (m left : Nat) (s : State) (hm : m ≤ left)
    (hp : ∀ k < m, s.probeAnswer i k = .absent) (he : s.NextExportsOk m) :
    exportLoop i left s = exportLoop i (left - m) (s.requested i m (s.platform.after (countOf i m) m 0 0)) := by
  induction m generalizing left s with
  | zero => simp [State.requested]
  | succ m ih =>
    obtain ⟨left, rfl⟩ : ∃ n, left = n + 1 := ⟨left - 1, by omega⟩
    have hp0 := hp 0 (by omega)
    have once : exportLoop i (left + 1) s = exportLoop i left (s.requested i 1 (s.platform.after (countOf i 1) 1 0 0)) := by
      have h1 : ((s.answered (countOf i 1) 0 0 0).emit (.exportReq i)).answered (linesAll 0) 1 0 0 =
          s.requested i 1 (s.platform.after (countOf i 1) 1 0 0) := by
        simp [State.answered, State.emit, State.requested]
      rcases he 0 (by omega) with hx | hx <;> simp [exportLoop, pinProbe, hp0, pinExport, hx, delay, h1]
    have hp' : ∀ k < m, (s.requested i 1 (s.platform.after (countOf i 1) 1 0 0)).probeAnswer i k = .absent := fun k hk => by
      simpa [State.requested, State.probeAnswer, Platform.after] using hp (1 + k) (by omega)
    have he' : (s.requested i 1 (s.platform.after (countOf i 1) 1 0 0)).NextExportsOk m := fun k hk => by
      simpa [State.requested, State.exportAnswer, Platform.after] using he (1 + k) (by omega)
    rw [once, ih left _ (by omega) hp' he', requested_requested]
    have e1 : left - m = left + 1 - (m + 1) := by omega
    have e2 : 1 + m = m + 1 := by omega
    simp only [State.requested, platform_after_after, countOf_add, e1, e2, Nat.add_zero]

/-- R74: the three endings of a direction write. -/
theorem writeDirection_cases (i : Line) (s : State) :
    (s.dirAnswer 0 = .ok ∧ writeDirection i s = .ok (((s.emit (.setDir i)).answered (linesAll 0) 0 1 0).setDir i .out)) ∨
    (∃ e, s.dirAnswer 0 = .fail e ∧ writeDirection i s =
      .raise (.io (.os e)) (((s.emit (.setDir i)).answered (linesAll 0) 0 1 0).setDir i .unknown)) ∨
    (s.dirAnswer 0 = .hang ∧ writeDirection i s = .hang ((s.emit (.setDir i)).answered (linesAll 0) 0 1 0)) := by
  rcases h : s.dirAnswer 0 with _ | e | _ <;> simp [writeDirection, pinSetDir, h]

/-! ## What no operation touches -/

/-- The state an operation has reached when it ends. -/
def Flow.state : Flow → State
  | .ok s => s
  | .raise _ s => s
  | .hang s => s
  | .refuse _ s => s

/-- From `s` to `t`: the configuration, the status but for session and exit, the marks and the inputs are as they were; the
trace has grown; a line once seen present still is. -/
structure Progress (s t : State) : Prop where
  cfg : t.cfg = s.cfg
  cause : t.cause = s.cause
  errinfo : t.errinfo = s.errinfo
  refused : t.refused = s.refused
  refusal : t.refusal = s.refusal
  stuck : t.stuck = s.stuck
  inputs : t.inputs = s.inputs
  trace : s.trace <+: t.trace
  exported : ∀ i, (s.pin i).exported = true → (t.pin i).exported = true

theorem Progress.refl' (s : State) : Progress s s :=
  ⟨rfl, rfl, rfl, rfl, rfl, rfl, rfl, List.prefix_rfl, fun _ h => h⟩

theorem Progress.trans' {s t u : State} (h : Progress s t) (k : Progress t u) : Progress s u :=
  ⟨k.cfg.trans h.cfg, k.cause.trans h.cause, k.errinfo.trans h.errinfo, k.refused.trans h.refused,
    k.refusal.trans h.refusal, k.stuck.trans h.stuck, k.inputs.trans h.inputs, h.trace.trans k.trace,
    fun i hi => k.exported i (h.exported i hi)⟩

theorem progress_requested (s : State) (i : Line) (m : Nat) (p : Platform) : Progress s (s.requested i m p) :=
  ⟨rfl, rfl, rfl, rfl, rfl, rfl, rfl, List.prefix_append _ _, fun _ h => h⟩

theorem progress_emit (s : State) (e : Event) (a : Lines Nat) (b c d : Nat) : Progress s ((s.emit e).answered a b c d) :=
  ⟨rfl, rfl, rfl, rfl, rfl, rfl, rfl, List.prefix_append _ _, fun _ h => h⟩

theorem progress_setExported (s : State) (i : Line) : Progress s (s.setExported i) :=
  ⟨rfl, rfl, rfl, rfl, rfl, rfl, rfl, List.prefix_rfl, fun j h => by by_cases e : j = i <;> simp [e, h]⟩

theorem progress_setDir (s : State) (i : Line) (d : Dir) : Progress s (s.setDir i d) :=
  ⟨rfl, rfl, rfl, rfl, rfl, rfl, rfl, List.prefix_rfl, fun j h => by
    by_cases e : j = i
    · subst e; simpa using h
    · simpa [e] using h⟩

theorem progress_setLevel (s : State) (i : Line) (l : Option Bool) : Progress s (s.setLevel i l) :=
  ⟨rfl, rfl, rfl, rfl, rfl, rfl, rfl, List.prefix_rfl, fun j h => by
    by_cases e : j = i
    · subst e; simpa using h
    · simpa [e] using h⟩

/-- Progress goes through a sequence. -/
theorem progress_andThen {s : State} {m : Flow} {k : State → Flow} (hm : Progress s m.state)
    (hk : ∀ t, Progress t (k t).state) : Progress s (m.andThen k).state := by
  rcases m with t | ⟨x, t⟩ | t | ⟨r, t⟩
  · exact hm.trans' (hk t)
  · exact hm
  · exact hm
  · exact hm

theorem progress_forEach {α : Type} {op : α → State → Flow} (h : ∀ a s, Progress s (op a s).state) (l : List α) (s : State) :
    Progress s (forEach op l s).state := by
  induction l generalizing s with
  | nil => exact Progress.refl' s
  | cons a l ih => exact progress_andThen (h a s) fun t => ih t

/-- Progress goes through an admission: a refusal leaves the state where it is. -/
theorem progress_admitted {op : Opcode} {checks : State → Option RefusalReason} {body : State → Flow} {s : State}
    (h : Progress s (body s).state) : Progress s (admitted op checks body s).state := by
  rcases admitted_cases op checks body s with ⟨r, _, e⟩ | ⟨r, _, _, e⟩ | ⟨_, _, _, e⟩ <;> rw [e]
  · exact Progress.refl' s
  · exact Progress.refl' s
  · exact h

theorem progress_ensureExported (i : Line) (s : State) : Progress s (ensureExported i s).state := by
  refine progress_admitted ?_
  obtain ⟨m, _, p, h | ⟨_, h⟩ | h⟩ := exportLoop_cases i s.cfg.exportMaxAttempts s <;> rw [h]
  · exact (progress_requested s i m p).trans' (progress_setExported _ i)
  · exact progress_requested s i m p
  · exact progress_requested s i m p

theorem progress_setDirection (i : Line) (s : State) : Progress s (setDirection i s).state := by
  refine progress_admitted (progress_andThen (progress_ensureExported i s) fun t => ?_)
  rcases writeDirection_cases i t with ⟨_, h⟩ | ⟨_, _, h⟩ | ⟨_, h⟩ <;> rw [h]
  · exact (progress_emit t _ (linesAll 0) 0 1 0).trans' (progress_setDir _ i _)
  · exact (progress_emit t _ (linesAll 0) 0 1 0).trans' (progress_setDir _ i _)
  · exact progress_emit t _ (linesAll 0) 0 1 0

theorem progress_writeLevel (i : Line) (b : Bool) (s : State) : Progress s (writeLevel i b s).state := by
  refine progress_admitted ?_
  rcases driveLevel_cases i b s with ⟨_, h⟩ | ⟨_, _, h⟩ | ⟨_, h⟩ <;> rw [h]
  · exact (progress_emit s _ (linesAll 0) 0 0 1).trans' (progress_setLevel _ i _)
  · exact (progress_emit s _ (linesAll 0) 0 0 1).trans' (progress_setLevel _ i _)
  · exact progress_emit s _ (linesAll 0) 0 0 1

theorem progress_pulse (i : Line) (s : State) : Progress s (pulse i s).state :=
  progress_admitted (progress_andThen (progress_writeLevel i true s) (progress_writeLevel i false))

theorem progress_sendBits (n : Nat) (v : Byte) (s : State) : Progress s (sendBits n v s).state := by
  induction n generalizing v s with
  | zero => exact Progress.refl' s
  | succ n ih =>
    exact progress_andThen (progress_andThen (progress_writeLevel .data _ s) (progress_pulse .clk)) fun t => ih _ t

theorem progress_sendByte (v : Byte) (s : State) : Progress s (sendByte v s).state :=
  progress_admitted (progress_sendBits 8 v s)

theorem progress_loadFrequency (f phase : Nat) (d : Bool) (s : State) : Progress s (loadFrequency f phase d s).state :=
  progress_admitted (progress_andThen (progress_forEach progress_sendByte _ s) (progress_pulse .update))

theorem progress_boot (s : State) : Progress s s.boot :=
  ⟨rfl, rfl, rfl, rfl, rfl, rfl, rfl, List.prefix_rfl, fun _ h => h⟩

theorem progress_endSession (s : State) : Progress s s.endSession :=
  ⟨rfl, rfl, rfl, rfl, rfl, rfl, rfl, List.prefix_rfl, fun _ h => h⟩

theorem progress_initializeLines (s : State) : Progress s (initializeLines s).state :=
  progress_admitted <|
    progress_andThen
      (progress_forEach (fun i t => progress_andThen (progress_ensureExported i t) (progress_setDirection i)) _ s) fun t =>
    progress_andThen (progress_forEach (fun i u => progress_writeLevel i false u) _ t) fun u =>
    progress_andThen (progress_forEach progress_pulse _ u) fun v => progress_boot v

theorem progress_bootAndLoad (f phase : Nat) (d : Bool) (s : State) : Progress s (bootAndLoad f phase d s).state :=
  progress_andThen (progress_initializeLines s) fun t =>
    progress_andThen (progress_loadFrequency f phase d t) fun u => progress_endSession u

theorem progress_setFreq (f phase : Nat) (s : State) : Progress s (setFreq f phase s).state := by
  refine progress_admitted ?_
  by_cases h : f > Config.fmax
  · rw [if_pos h]
    exact Progress.refl' s
  · rw [if_neg h]
    exact progress_bootAndLoad f phase false s

theorem progress_shutdown (s : State) : Progress s (shutdown s).state := progress_admitted (progress_bootAndLoad 0 0 true s)

end Sys2Proof.Machine
end

