-- ==== Sys2Proof/Laws/Receiver.lean ====
section
/-! SUPPORT. The small laws of the receiver view. -/

namespace Sys2Proof.Machine

@[simp] theorem seeAll_nil (r : Receiver) : r.seeAll [] = r := rfl
@[simp] theorem seeAll_cons (r : Receiver) (e : Event) (t : List Event) : r.seeAll (e :: t) = (r.see e).seeAll t := rfl

theorem seeAll_append (r : Receiver) (t u : List Event) : r.seeAll (t ++ u) = (r.seeAll t).seeAll u :=
  List.foldl_append ..

theorem receiverOf_append (t u : List Event) : receiverOf (t ++ u) = (receiverOf t).seeAll u := seeAll_append _ t u

/-- R55: an export request is skipped. -/
@[simp] theorem see_exportReq (r : Receiver) (i : Line) : r.see (.exportReq i) = r := rfl

@[simp] theorem lvl_raised (r : Receiver) (i : Line) : (r.raised i).lvl = r.lvl := by
  unfold Receiver.raised
  split
  · rfl
  · cases i <;> rfl
  · rfl

/-- R55: the level the receiver knows after a write is the level written. -/
@[simp] theorem lvl_see_write (r : Receiver) (i : Line) (b : Bool) : (r.see (.write i b)).lvl = linesSet r.lvl i (some b) := by
  cases b <;> simp [Receiver.see, Receiver.setLvl]

/-- R55: after a direction write the level is unknown. -/
@[simp] theorem lvl_see_setDir (r : Receiver) (i : Line) : (r.see (.setDir i)).lvl = linesSet r.lvl i none := rfl

/-- R55: a segment once completed stays. -/
theorem segs_see_prefix (r : Receiver) (e : Event) : r.segs <+: (r.see e).segs := by
  rcases e with i | i | ⟨i, b⟩
  · exact List.prefix_rfl
  · exact List.prefix_rfl
  · cases b
    · exact List.prefix_rfl
    · show r.segs <+: (r.raised i).segs
      unfold Receiver.raised
      split
      · exact List.prefix_rfl
      · cases i <;> simp [Receiver.risingEdge]
      · exact List.prefix_rfl

theorem segs_seeAll_prefix (r : Receiver) (t : List Event) : r.segs <+: (r.seeAll t).segs := by
  induction t generalizing r with
  | nil => exact List.prefix_rfl
  | cons e t ih => exact (segs_see_prefix r e).trans (ih (r.see e))

/-- R55: a write to DATA whose level was known takes the level over and nothing else. -/
theorem see_write_data {r : Receiver} {l : Bool} (b : Bool) (h : r.lvl.data = some l) :
    r.see (.write .data b) = r.setLvl .data (some b) := by
  cases b <;> cases l <;> simp [Receiver.see, Receiver.raised, linesGet, h, Receiver.risingEdge]

/-- R55: a pulse of CLK from low, DATA's level being known, adds DATA's level to the open segment and leaves CLK low. -/
theorem seeAll_pulse_clk {r : Receiver} {l : Bool} (hk : r.lvl.clk = some false) (hd : r.lvl.data = some l) :
    r.seeAll (pulseEvents .clk) =
      { lvl := { r.lvl with clk := some false }
        segs := r.segs
        cur := { r.cur with bits := r.cur.bits ++ [some l] } } := by
  simp [pulseEvents, Receiver.see, Receiver.setLvl, Receiver.raised, Receiver.risingEdge, linesGet, linesSet, hk, hd]

/-- R55, R77: with CLK low and DATA known, the three writes of a bit add that bit to the open segment and leave CLK low. -/
theorem seeAll_bitEvents {r : Receiver} {l : Bool} (b : Bool) (hk : r.lvl.clk = some false) (hd : r.lvl.data = some l) :
    r.seeAll (bitEvents b) =
      { lvl := { r.lvl with data := some b, clk := some false }
        segs := r.segs
        cur := { r.cur with bits := r.cur.bits ++ [some b] } } := by
  rw [bitEvents, seeAll_cons, see_write_data b hd,
    seeAll_pulse_clk (l := b) (by simpa [Receiver.setLvl, linesSet] using hk) (by simp [Receiver.setLvl, linesSet])]
  simp [Receiver.setLvl, linesSet]

end Sys2Proof.Machine
end

