-- ==== Sys2Proof/Laws/Step.lean ====
section
/-! SUPPORT. What `exec` and `step` can answer. -/

namespace Sys2Proof.Machine

/-- The operation a command is. -/
def operation : Instr → State → Flow
  | .ensureExported i => ensureExported i
  | .setDirection i => setDirection i
  | .writeLevel i b => writeLevel i b
  | .pulse i => pulse i
  | .sendByte v => sendByte v
  | .loadFrequency f p d => loadFrequency f p d
  | .initializeLines => initializeLines
  | .setFreq f p => setFreq f p
  | .shutdown => shutdown

/-- Every command ends in a next state: the end of its operation (R17). -/
theorem exec_eq_finish (i : Instr) (s : State) : exec i s = .next (operation i s).finish := by
  cases i <;> rfl

/-- Every command's operation makes progress. -/
theorem progress_operation (i : Instr) (s : State) : Progress s (operation i s).state := by
  cases i
  · exact progress_ensureExported _ s
  · exact progress_setDirection _ s
  · exact progress_writeLevel _ _ s
  · exact progress_pulse _ s
  · exact progress_sendByte _ s
  · exact progress_loadFrequency _ _ _ s
  · exact progress_initializeLines s
  · exact progress_setFreq _ _ s
  · exact progress_shutdown s

/-- The four endings of a flow. -/
theorem finish_cases (m : Flow) :
    m.finish = m.state ∨ (∃ x, m.finish = m.state.takeException x) ∨ m.finish = m.state.hang ∨
      ∃ r, m.finish = m.state.refuse r := by
  rcases m with t | ⟨x, t⟩ | t | ⟨r, t⟩
  · exact .inl rfl
  · exact .inr (.inl ⟨x, rfl⟩)
  · exact .inr (.inr (.inl rfl))
  · exact .inr (.inr (.inr ⟨r, rfl⟩))

/-- When a step answers a next state: the block was not stuck, the host had given an input, and the step ran its command or
refused it. -/
theorem step_next {s t : State} (h : step s = .next t) :
    s.stuck = false ∧ ∃ input rest, s.inputs = input :: rest ∧
      ((∃ i, readInput input = .ok i ∧ exec i (s.withInputs rest) = .next t) ∨
        ∃ r, readInput input = .error r ∧ t = (s.withInputs rest).refuse r) := by
  unfold step at h
  rcases hs : s.stuck with _ | _
  · refine ⟨rfl, ?_⟩
    simp only [hs, Bool.false_eq_true, if_false] at h
    rcases hi : s.inputs with _ | ⟨input, rest⟩
    · simp [hi] at h
    · refine ⟨input, rest, rfl, ?_⟩
      rcases hr : readInput input with r | i
      · exact .inr ⟨r, rfl, by simpa [hi, hr] using h.symm⟩
      · exact .inl ⟨i, rfl, by simpa [hi, hr] using h⟩
  · simp [hs] at h

@[simp] theorem withFetchWord_inputs (s : State) (nbits w : Nat) :
    (s.withFetchWord nbits w).inputs = inputOfTableWord nbits w :: s.inputs := rfl

end Sys2Proof.Machine
end

