-- ==== Sys2Proof/Tests/Slice0.lean ====
section
/-! SUPPORT. The model's own tests: words, vectors and programs of spec/95_test_vectors.md on one step each, the refusals of
WellFormed, and for every statement with hypotheses a state and operands that meet them. -/

namespace Sys2Proof.Tests

open Sys2Proof Sys2Proof.Machine

/-! ## Helpers -/

/-- A valid configuration with two export attempts (95_test_vectors.md section 2.1). -/
def testConfig : Config :=
  { pins := { clk := 17, update := 27, data := 22, reset := 23 }
    exportMaxAttempts := 2
    exportRetryDelay := 100
    exitFreqMax := -1 }

/-- Probe answers for one line alone. -/
def probesOf (i : Line) (l : List ProbeAnswer) : Lines (List ProbeAnswer) := linesSet (linesAll []) i l

/-- A platform that gives these answers next. -/
def platformOf (probes : Lines (List ProbeAnswer)) (exports : List ExportAnswer) (dirs writes : List WriteAnswer) : Platform :=
  { probes :=
      { clk := { queue := probes.clk, ever := none, given := 0 }
        update := { queue := probes.update, ever := none, given := 0 }
        data := { queue := probes.data, ever := none, given := 0 }
        reset := { queue := probes.reset, ever := none, given := 0 } }
    exports := { queue := exports, ever := none, given := 0 }
    dirs := { queue := dirs, ever := none, given := 0 }
    writes := { queue := writes, ever := none, given := 0 } }

/-- A platform of R42: the probes of each line answer these and `PRESENT` ever after, every other access is answered `OK`. -/
def servedPlatform (probes : Lines (List ProbeAnswer)) : Platform :=
  { probes :=
      { clk := { queue := probes.clk, ever := some .present, given := 0 }
        update := { queue := probes.update, ever := some .present, given := 0 }
        data := { queue := probes.data, ever := some .present, given := 0 }
        reset := { queue := probes.reset, ever := some .present, given := 0 } }
    exports := { queue := [], ever := some .ok, given := 0 }
    dirs := { queue := [], ever := some .ok, given := 0 }
    writes := { queue := [], ever := some .ok, given := 0 } }

/-- `Healthy` for a bootstrap and `n` level writes. -/
def good (n : Nat) : Platform := platformOf (linesAll [.present, .present]) [] (List.replicate 4 .ok) (List.replicate n .ok)

/-- A platform whose level write number `n`, counted from 0, answers `a`. -/
def goodThen (n : Nat) (a : WriteAnswer) : Platform :=
  platformOf (linesAll [.present, .present]) [] (List.replicate 4 .ok) (List.replicate n .ok ++ [a])

/-- The launch under the test configuration. -/
def launched (p : Platform) : State := State.launch testConfig p []

/-- An exported output at a level. -/
def outputPin (l : Option Bool) : Pin := { exported := true, dir := .out, level := l }

/-- Every line an exported output at level 0, as a bootstrap leaves them. -/
def ready (x : Sess) (p : Platform) : State :=
  { launched p with
    pins :=
      { clk := outputPin (some false), update := outputPin (some false), data := outputPin (some false)
        reset := outputPin (some false) }
    sess := x
    trace := bootstrapEvents }

/-- The state a command leaves. -/
def after (i : Instr) (s : State) : State :=
  match exec i s with
  | .next t => t
  | .fault _ => s
  | .refused _ => s

/-- The events a command appends. -/
def eventsOf (i : Instr) (s : State) : List Event := (after i s).trace.drop s.trace.length

/-! ## WellFormed refuses what fits no command word (30_encoding.md R62) -/

theorem test_wellFormed_refuses_wide_freq_load : (Instr.loadFrequency (2 ^ 32) 0 false).wellFormed = false := by decide
theorem test_wellFormed_refuses_wide_phase_load : (Instr.loadFrequency 0 256 false).wellFormed = false := by decide
theorem test_wellFormed_refuses_wide_freq_set : (Instr.setFreq (2 ^ 32) 0).wellFormed = false := by decide
theorem test_wellFormed_refuses_wide_phase_set : (Instr.setFreq 0 256).wellFormed = false := by decide

/-! ## Decoding: words of 95_test_vectors.md section 2.5 and of R64 -/

theorem test_decode_ensureExported : decode 0x0100C00000000000 = .ok (.ensureExported .reset) := by rfl
theorem test_decode_ensureExported_update : decode 0x0100400000000000 = .ok (.ensureExported .update) := by rfl
theorem test_decode_setDirection : decode 0x0200A00000000000 = .ok (.setDirection .data) := by rfl
theorem test_decode_writeLevel_high : decode 0x0300A00000000000 = .ok (.writeLevel .data true) := by rfl
theorem test_decode_writeLevel_low : decode 0x0300800000000000 = .ok (.writeLevel .data false) := by rfl
theorem test_decode_pulse : decode 0x0400400000000000 = .ok (.pulse .update) := by rfl
theorem test_decode_sendByte : decode 0x10A5000000000000 = .ok (.sendByte 0xA5) := by rfl
theorem test_decode_loadFrequency : decode 0x2000101F02625A00 = .ok (.loadFrequency 40000000 31 true) := by rfl
theorem test_decode_initializeLines : decode 0x3000000000000000 = .ok .initializeLines := by rfl
theorem test_decode_setFreq : decode 0x4000000A000F4240 = .ok (.setFreq 1000000 10) := by rfl
theorem test_decode_shutdown : decode 0x4100000000000000 = .ok .shutdown := by rfl
theorem test_decode_setFreq_phase_32 : decode 0x40000020000F4240 = .ok (.setFreq 1000000 32) := by rfl

theorem test_decode_input_direction : decode 0x0200000000000000 = .error .directionInput := by rfl
theorem test_decode_opcode_5 : decode 0x0500000000000000 = .error .unassignedOpcode := by rfl
theorem test_decode_opcode_0 : decode 0x0000000000000000 = .error .unassignedOpcode := by rfl
theorem test_decode_reserved : decode 0x2000010000000000 = .error .reservedNonzero := by rfl
theorem test_decode_initialize_freq : decode 0x3000000000000001 = .error .unusedFieldNonzero := by rfl
theorem test_decode_ensure_lvl : decode 0x0100200000000000 = .error .unusedFieldNonzero := by rfl
theorem test_decode_pulse_lvl : decode 0x0400200000000000 = .error .unusedFieldNonzero := by rfl
theorem test_decode_sendByte_pin : decode 0x1000400000000000 = .error .unusedFieldNonzero := by rfl
theorem test_decode_setFreq_pd : decode 0x4000100000000000 = .error .unusedFieldNonzero := by rfl
theorem test_decode_shutdown_freq : decode 0x4100000000000001 = .error .unusedFieldNonzero := by rfl

theorem test_encode_loadFrequency : encode (.loadFrequency 5000000 0 true) = 0x20001000004C4B40 := by rfl
theorem test_encode_setDirection : encode (.setDirection .reset) = 0x0200E00000000000 := by rfl
theorem test_decodeTableWord : decodeTableWord 64 0x4100000000000000 = some .shutdown := by rfl
theorem test_withFetchWord_runs :
    step (State.reset.withFetchWord 64 0x3000000000000000) = exec .initializeLines State.reset := by rfl

/-! ## The encoder's numbers: sections 1.1, 1.2, 1.3 and 2.3 -/

theorem test_tuningWord_2 : tuningWord 2 = 68 := by decide
theorem test_tuningWord_1000 : tuningWord 1000 = 0x00008637 := by decide
theorem test_tuningWord_1234567 : tuningWord 1234567 = 0x028744C7 := by decide
theorem test_tuningWord_39999999 : tuningWord 39999999 = 0x51EB84FC := by decide
theorem test_tuningWord_max : tuningWord 40000000 = 0x51EB851E := by decide
theorem test_controlByte : [controlByte 0 false, controlByte 0 true, controlByte 1 false, controlByte 1 true,
    controlByte 31 false, controlByte 31 true] = [0x00, 0x04, 0x08, 0x0C, 0xF8, 0xFC] := by decide
theorem test_frame_LF5 : frameOf 40000000 31 true = [0x1E, 0x85, 0xEB, 0x51, 0xFC] := by decide
theorem test_wordOf_LF1 : wordOf 1000000 10 false = 0x50020C49BA := by decide
theorem test_wordOfBytes : wordOfBytes 0xBA 0x49 0x0C 0x02 = 0x020C49BA := by decide

/-! ## The pin driver: section 2.1 -/

theorem test_PD3_ensureExported :
    (let t := after (.ensureExported .data) (launched (platformOf (probesOf .data [.absent, .absent, .present]) [.ok, .already] [] []));
      t.trace = [.exportReq .data, .exportReq .data] ∧ t.pin .data = { exported := true, dir := .unknown, level := none } ∧
        t.sess = .uninit) := by decide
theorem test_PD4_ensureExported_exhausted :
    (let t := after (.ensureExported .data) (launched (platformOf (probesOf .data [.absent, .absent, .absent]) [.ok, .ok] [] []));
      t.trace = [.exportReq .data, .exportReq .data] ∧ t.pin .data = .launch ∧ t.cause = .eIo ∧
        t.errinfo = some .exportExhausted ∧ t.exit = some 1 ∧ t.sess = .halted) := by decide
theorem test_PD9_setDirection_forgets_level :
    (let t := after (.setDirection .clk) (ready .uninit (platformOf (probesOf .clk [.present]) [] [.ok] []));
      t.pin .clk = outputPin none ∧ t.pin .update = outputPin (some false)) := by decide
theorem test_PD10_setDirection_fails :
    (let t := after (.setDirection .clk) (launched (platformOf (probesOf .clk [.present]) [] [.fail 5] []));
      t.trace = [.setDir .clk] ∧ t.pin .clk = { exported := true, dir := .unknown, level := none } ∧
        t.errinfo = some (.os 5) ∧ t.exit = some 1) := by decide
theorem test_PD11_writeLevel_refused :
    after (.writeLevel .data true) (launched (good 0)) = (launched (good 0)).refuse .lineNotOutput := by decide
theorem test_PD14_writeLevel_fails :
    (let t := after (.writeLevel .data true) (ready .uninit (goodThen 0 (.fail 7)));
      t.pin .data = outputPin none ∧ t.cause = .eIo ∧ t.sess = .halted) := by decide
theorem test_PD15_pulse :
    eventsOf (.pulse .update) (ready .booted (good 2)) = [.write .update true, .write .update false] := by decide
theorem test_PD16_pulse_fails :
    (let t := after (.pulse .update) (ready .booted (goodThen 0 (.fail 7)));
      t.trace = bootstrapEvents ++ [.write .update true] ∧ t.pin .update = outputPin none) := by decide

/-! ## The serializer and the encoder: sections 1.4, 2.2, 2.3 -/

theorem test_SB4_sendByte_levels :
    (eventsOf (.sendByte 0xB0) (ready .booted (good 24))).filterMap
        (fun e => match e with | .write .data b => some b | _ => none) =
      [false, false, false, false, true, true, false, true] := by decide
theorem test_SB10_sendByte_fails :
    (let t := after (.sendByte 0xB0) (ready .booted (goodThen 2 (.fail 7)));
      t.trace = bootstrapEvents ++ [.write .data false, .write .clk true, .write .clk false] ∧
        t.pin .clk = outputPin none ∧ t.pin .data = outputPin (some false)) := by decide
theorem test_LF1_loadFrequency :
    (let t := after (.loadFrequency 1000000 10 false) (ready .booted (good 122));
      t.trace = bootstrapEvents ++ frameEvents [0xBA, 0x49, 0x0C, 0x02, 0x50] ∧ t.sess = .booted ∧
        t.pin .data = outputPin (some false)) := by decide +kernel
theorem test_LF10_loadFrequency_fails :
    (let t := after (.loadFrequency 1000000 10 false) (ready .booted (goodThen 61 (.fail 7)));
      t.trace.length = 14 + 62 ∧ t.pin .clk = outputPin none ∧ t.exit = some 1 ∧
        (receiverView t).cur.bits.length = 20 ∧ (receiverView t).cur.uncertain = true) := by decide +kernel

/-! ## The session: section 2.4 and programs P1, P2, P5 -/

theorem test_SS2_initializeLines :
    (after .initializeLines (launched (platformOf
        (linesAll [.absent, .present, .present])
        [.ok, .ok, .ok, .ok] (List.replicate 4 .ok) (List.replicate 10 .ok)))).trace = bootstrapExportEvents := by
  decide +kernel
theorem test_SS12_initializeLines_fails :
    (let t := after .initializeLines (launched (platformOf (linesAll [.present, .present]) [] [.ok, .ok, .fail 9] []));
      t.trace = [.setDir .clk, .setDir .update, .setDir .data] ∧ t.pin .update = outputPin none ∧
        t.pin .data = { exported := true, dir := .unknown, level := none } ∧ t.pin .reset = .launch ∧
        t.sess = .halted) := by decide +kernel
theorem test_P1_P5_setFreq :
    (let t := after (.setFreq 1000000 10) (launched (good 132));
      t.trace.length = 136 ∧ t.exit = some 0 ∧
        (receiverView t).segs = [bootstrapSegment, frameSegment 0x50020C49BA] ∧ (receiverView t).cur = .empty) ∧
    (let t := after (.setFreq 1000000 10) (launched (goodThen 59 (.fail 7)));
      t.trace.length = 64 ∧ t.pin .clk = outputPin none ∧ t.errinfo = some (.os 7) ∧
        (receiverView t).segs = [bootstrapSegment] ∧ (receiverView t).cur.bits.length = 16) := by decide +kernel
theorem test_P2_shutdown :
    (let t := after .shutdown (launched (good 132));
      t.trace.length = 136 ∧ (receiverView t).segs = [bootstrapSegment, frameSegment 0x0400000000]) := by decide +kernel
theorem test_EX3_shutdown_probe_fails :
    (let t := after .shutdown (launched (platformOf { clk := [.present, .present], update := [.fail 3], data := [], reset := [] } [] [.ok] []));
      t.trace = [.setDir .clk] ∧ t.errinfo = some (.os 3) ∧ t.sess = .halted) := by decide +kernel
theorem test_SS8_SS11_setFreq_too_high :
    (let t := after (.setFreq 4294967295 0) (launched (good 0));
      t.trace = [] ∧ t.cause = .eFreqMax ∧ t.exit = some (-1) ∧ t.errinfo = none) ∧
    after (.setFreq 40000001 32) (launched (good 0)) = (launched (good 0)).refuse .phaseRange := by decide

/-! ## The receiver: section 2.7 and program P6 -/

theorem test_RX1_bootstrap : receiverOf bootstrapEvents =
    { lvl := { clk := some false, update := some false, data := some false, reset := some false }
      segs := [bootstrapSegment], cur := .empty } := by decide
theorem test_RX3_unknown_rise :
    (receiverOf [.setDir .clk, .write .clk true, .write .clk false]).cur =
      { bits := [], reset := false, uncertain := true } := by decide
theorem test_P6_receiver :
    (receiverOf [.setDir .data, .write .data true, .setDir .clk, .write .clk true, .write .clk false, .write .clk false,
      .write .clk true, .write .clk false]).cur = { bits := [some true], reset := false, uncertain := true } := by decide

/-! ## Assembly and command lines: section 3, R69, R70, R72 -/

theorem test_asm_setFreq : assemble "set_freq 1000000, 10".toList = some 0x4000000A000F4240 := by decide
theorem test_asm_comment :
    assemble "set_freq 1000000, 10          ; 0x4000000A000F4240".toList = some 0x4000000A000F4240 := by decide
theorem test_asm_setFreq_pseudo : assemble "set_freq 40000001".toList = some 0x4000000002625A01 := by decide
theorem test_asm_loadFrequency : assemble "load_frequency 10000000, 0, 0".toList = some 0x2000000000989680 := by decide
theorem test_asm_sendByte_hex : assemble "send_byte 0xA5".toList = some 0x10A5000000000000 := by decide
theorem test_asm_setDirection : assemble "set_direction data, out".toList = some 0x0200A00000000000 := by decide
theorem test_asm_writeLevel : assemble "write_level update, 0".toList = some 0x0300400000000000 := by decide
theorem test_asm_plain : ["initialize".toList, "shutdown".toList, "ensure_exported data".toList, "pulse clk".toList].map
    assemble = [some 0x3000000000000000, some 0x4100000000000000, some 0x0100800000000000, some 0x0400000000000000] := by
  decide
theorem test_asm_refuses :
    ["send_byte 256".toList, "set_direction clk, in".toList, "pulse".toList, "initialize 1".toList].map assemble =
      [none, none, none, none] := by decide
theorem test_commandLine_phase_default : commandOfLine (.frequency 1000000 none) = some (.setFreq 1000000 0) := by decide
theorem test_commandLine_too_wide : commandOfLine (.frequency (2 ^ 32) none) = none := by decide

/-! ## Witnesses: every statement with hypotheses has a state and operands that meet them -/

theorem witness_DecodeAfterEncode : (Instr.loadFrequency (2 ^ 32 - 1) 255 true).wellFormed = true := by decide
theorem witness_TuningWord_ControlByte :
    40000000 ≤ 40000000 ∧ 1953125 ∣ 31250000 ∧ 31 ≤ 31 ∧ 4 < 5 ∧ 40000001 > 40000000 ∧ controlByte 31 true = 0xFC := by decide
theorem witness_LaunchState :
    launched (good 0) = State.launch testConfig (good 0) [] ∧ decode 0x3000000000000000 = .ok .initializeLines := ⟨rfl, rfl⟩
theorem witness_EncodeAfterDecode : decode 0x40000020000F4240 = .ok (.setFreq 1000000 32) := by rfl
theorem witness_DecodeFollowsTheTable :
    (0x0100C00000000000 : CommandWord) &&& 0xFFFF3FFFFFFFFFFF = 0x0100000000000000 ∧
    (0x0200E00000000000 : CommandWord) &&& 0xFFFF3FFFFFFFFFFF = 0x0200200000000000 ∧
    (0x0300E00000000000 : CommandWord) &&& 0xFFFF1FFFFFFFFFFF = 0x0300000000000000 ∧
    (0x0400C00000000000 : CommandWord) &&& 0xFFFF3FFFFFFFFFFF = 0x0400000000000000 ∧
    (0x10FF000000000000 : CommandWord) &&& 0xFF00FFFFFFFFFFFF = 0x1000000000000000 ∧
    (0x200010FFFFFFFFFF : CommandWord) &&& 0xFFFFEF0000000000 = 0x2000000000000000 ∧
    (0x3000000000000000 : CommandWord) &&& 0xFFFFFFFFFFFFFFFF = 0x3000000000000000 ∧
    (0x400000FFFFFFFFFF : CommandWord) &&& 0xFFFFFF0000000000 = 0x4000000000000000 ∧
    (0x4100000000000000 : CommandWord) &&& 0xFFFFFFFFFFFFFFFF = 0x4100000000000000 ∧
    Opcode.shutdown.matchesWord 0x4100000000000000 = true := by decide
theorem witness_IllegalWords_fields :
    (0x0500000000000000 : CommandWord).extractLsb' 56 8 ≠ Opcode.pulse.code ∧
    (0x2000010000000000 : CommandWord).extractLsb' 40 4 ≠ 0 ∧
    (0x3001000000000000 : CommandWord).extractLsb' 48 8 ≠ 0 ∧
    (0x1000400000000000 : CommandWord).extractLsb' 46 2 ≠ 0 ∧
    (0x0100200000000000 : CommandWord).getLsbD 45 = true ∧
    (0x4000100000000000 : CommandWord).getLsbD 44 = true ∧
    (0x3000000000000001 : CommandWord).extractLsb' 0 40 ≠ 0 ∧
    (0x0200000000000000 : CommandWord).extractLsb' 56 8 = 0x02 ∧
    (0x0200000000000000 : CommandWord).getLsbD 45 = false := by decide
theorem witness_IllegalWords_step :
    (∀ op : Opcode, op.matchesWord 0x0200000000000000 = false) ∧
    ((launched (good 0)).withInputs [.word 0x0200000000000000]).stuck = false ∧
    ((launched (good 0)).withInputs [.word 0x0200000000000000]).inputs = [.word 0x0200000000000000] := by
  refine ⟨fun op => ?_, rfl, rfl⟩
  cases op <;> rfl
theorem witness_configValid : configValid testConfig = true := by decide
theorem witness_SessionAdmission :
    configValid (launched (good 0)).cfg = true ∧ (launched (good 0)).sess = .uninit ∧ (ready .booted (good 0)).sess = .booted ∧
    (ready .halted (good 0)).sess = .halted ∧
    (∃ t, exec .shutdown (launched (good 132)) = .next t) := by
  refine ⟨by decide, rfl, rfl, rfl, _, rfl⟩
theorem witness_ValueRanges :
    configValid (ready .booted (good 0)).cfg = true ∧ (ready .booted (good 0)).sess = .booted ∧
    (launched (good 0)).sess = .uninit ∧ 32 > 31 ∧ 40000001 > 40000000 ∧ 31 ≤ 31 := by decide
theorem witness_LineNotOutput :
    configValid (launched (good 0)).cfg = true ∧ (launched (good 0)).sess ≠ .halted ∧
    ((launched (good 0)).pin .data).exported = false ∧ ((launched (good 0)).pin .clk).dir ≠ .out := by decide
theorem witness_EqualLineNumbers :
    Line.clk ≠ Line.reset ∧
    linesGet ({ testConfig with pins := { testConfig.pins with reset := 17 } }).pins .clk =
      linesGet ({ testConfig with pins := { testConfig.pins with reset := 17 } }).pins .reset := by decide

/-- A platform on which a line is present after two export requests, the bound of the test configuration. -/
def lateLine (d : WriteAnswer) : Platform := platformOf (probesOf .clk [.absent, .absent, .present]) [.ok, .already] [d] []

theorem witness_EnsureExported_SetDirection (d : WriteAnswer) :
    configValid (launched (lateLine d)).cfg = true ∧ (launched (lateLine d)).sess ≠ .halted ∧
    2 ≤ (launched (lateLine d)).cfg.exportMaxAttempts ∧ (launched (lateLine d)).PresentAfter .clk 2 ∧
    (launched (lateLine d)).dirAnswer 0 = d := by
  refine ⟨rfl, (fun h => nomatch h), Nat.le_refl 2, ⟨?_, ?_, rfl⟩, rfl⟩
  · intro k hk
    interval_cases k <;> rfl
  · intro k hk
    interval_cases k
    · exact .inl rfl
    · exact .inr rfl
theorem witness_EnsureExported_present :
    (launched (good 0)).PresentAfter .data 0 :=
  ⟨fun k hk => absurd hk (by omega), fun k hk => absurd hk (by omega), rfl⟩
theorem witness_EnsureExportedExhausts :
    (∀ k ≤ 2, (launched (platformOf (probesOf .data [.absent, .absent, .absent]) [.ok, .ok] [] [])).probeAnswer .data k = .absent) ∧
    (launched (platformOf (probesOf .data [.absent, .absent, .absent]) [.ok, .ok] [] [])).NextExportsOk 2 ∧ testConfig.exportMaxAttempts = 2 := by
  refine ⟨fun k hk => ?_, fun k hk => ?_, rfl⟩
  · interval_cases k <;> rfl
  · interval_cases k <;> exact .inl rfl
theorem witness_EnsureExportedFails :
    (let s := launched (platformOf (probesOf .data [.absent, .absent, .fail 4]) [.ok, .fail 6] [] []);
      s.probeAnswer .data 0 = .absent ∧ s.exportAnswer 0 = .ok ∧ s.probeAnswer .data 1 = .absent ∧ s.exportAnswer 1 = .fail 6 ∧
        1 < s.cfg.exportMaxAttempts) ∧
    (let s := launched (platformOf (probesOf .data [.absent, .absent, .fail 4]) [.ok, .ok] [] []);
      s.probeAnswer .data 0 = .absent ∧ s.probeAnswer .data 1 = .absent ∧ s.exportAnswer 0 = .ok ∧ s.exportAnswer 1 = .ok ∧
        s.probeAnswer .data 2 = .fail 4 ∧ 2 ≤ s.cfg.exportMaxAttempts) := by decide

/-- The failing endings of the ENSURE_EXPORTED inside SET_DIRECTION: a probe, a request, no request left, a hang. -/
theorem witness_SetDirectionFails_inside :
    (∀ p ∈ [platformOf (probesOf .data [.fail 4]) [] [] [], platformOf (probesOf .data [.absent]) [.fail 6] [] [],
        platformOf (probesOf .data [.absent, .absent, .absent]) [.ok, .ok] [] []],
      (launched p).sess ≠ .halted ∧ (launched p).stuck = false ∧ (after (.ensureExported .data) (launched p)).sess = .halted) ∧
    (after (.ensureExported .data) (launched (platformOf (probesOf .data [.hang]) [] [] []))).stuck = true := by decide

/-- A ready state lets every line be written. -/
theorem ready_allOutputs (x : Sess) (p : Platform) : (ready x p).AllOutputs := fun i => by cases i <;> rfl

theorem witness_WriteLevel_Pulse :
    configValid (ready .booted (good 2)).cfg = true ∧ (ready .booted (good 2)).sess ≠ .halted ∧
    ((ready .booted (good 2)).pin .clk).exported = true ∧ ((ready .booted (good 2)).pin .clk).dir = .out ∧
    (∀ k < 2, (ready .booted (good 2)).writeAnswer k = .ok) ∧
    (ready .booted (goodThen 0 (.fail 1))).writeAnswer 0 = .fail 1 ∧
    (ready .booted (goodThen 1 (.fail 1))).writeAnswer 0 = .ok ∧
    (ready .booted (goodThen 1 (.fail 1))).writeAnswer 1 = .fail 1 := by decide
theorem witness_SendByte_LoadFrequency :
    configValid (ready .booted (good 122)).cfg = true ∧ (ready .booted (good 122)).sess = .booted ∧
    (ready .booted (good 122)).AllOutputs ∧ (ready .booted (good 122)).NextWritesOk 122 ∧
    (ready .booted (good 122)).NextWritesOk 24 ∧ 40000000 ≤ 40000000 ∧ 31 ≤ 31 := by
  have h : ∀ k < 122, (ready .booted (good 122)).writeAnswer k = .ok := by decide +kernel
  exact ⟨by decide, rfl, ready_allOutputs _ _, h, fun k hk => h k (by omega), le_rfl, le_rfl⟩
theorem witness_FrameAbandoned_first :
    (frameEvents (frameOf 40000000 31 true))[0]? = some (.write .data false) ∧
    (ready .booted (goodThen 0 (.fail 7))).NextWritesOk 0 ∧ (ready .booted (goodThen 0 (.fail 7))).writeAnswer 0 = .fail 7 :=
  ⟨by decide +kernel, fun k hk => absurd hk (by omega), rfl⟩
theorem witness_FrameAbandoned_last :
    (frameEvents (frameOf 40000000 31 true))[121]? = some (.write .update false) ∧
    (ready .booted (goodThen 121 (.fail 7))).NextWritesOk 121 ∧
    (ready .booted (goodThen 121 (.fail 7))).writeAnswer 121 = .fail 7 := by
  have h : ∀ k < 121, (ready .booted (goodThen 121 (.fail 7))).writeAnswer k = .ok := by decide +kernel
  exact ⟨by decide +kernel, h, by decide +kernel⟩

/-- The launch under a platform healthy for a whole host command. -/
theorem witness_Initialize_HostCommands :
    configValid (launched (good 132)).cfg = true ∧ (launched (good 132)).sess = .uninit ∧
    (launched (good 132)).HealthyFor 2 4 132 ∧ (launched (good 132)).HealthyFor 2 4 10 ∧ (launched (good 132)).CleanLaunch := by
  have hp : ∀ i, ∀ k < 2, (launched (good 132)).probeAnswer i k = .present := fun i => by cases i <;> decide
  have hd : ∀ k < 4, (launched (good 132)).dirAnswer k = .ok := by decide
  have hw : ∀ k < 132, (launched (good 132)).writeAnswer k = .ok := by decide +kernel
  exact ⟨by decide, rfl, ⟨hp, hd, hw⟩, ⟨hp, hd, fun k hk => hw k (by omega)⟩, rfl⟩

/-- A platform on which the lines are present after 2, 0, 1 and 2 export requests. -/
def lateLines : Platform :=
  platformOf
    { clk := [.absent, .absent, .present, .present], update := [.present, .present]
      data := [.absent, .present, .present], reset := [.absent, .absent, .present, .present] }
    (List.replicate 5 .ok) (List.replicate 4 .ok) (List.replicate 10 .ok)

theorem witness_InitializeBootsAfterExports :
    (∀ i, linesGet ({ clk := 2, update := 0, data := 1, reset := 2 } : Lines Nat) i ≤
      (launched lateLines).cfg.exportMaxAttempts) ∧
    (launched lateLines).PresentAfterEach { clk := 2, update := 0, data := 1, reset := 2 } ∧
    (launched lateLines).NextDirsOk 4 ∧ (launched lateLines).NextWritesOk 10 := by
  have he : ∀ k < 5, (launched lateLines).exportAnswer k = .ok := by decide
  have hd : ∀ k < 4, (launched lateLines).dirAnswer k = .ok := by decide
  have hw : ∀ k < 10, (launched lateLines).writeAnswer k = .ok := by decide
  exact ⟨fun i => by cases i <;> decide, ⟨fun i => by cases i <;> decide, fun k hk => .inl (he k hk)⟩, hd, hw⟩

/-- The other accesses of a platform of R42 are good. -/
theorem served_goodAccesses (probes : Lines (List ProbeAnswer)) : (launched (servedPlatform probes)).GoodAccesses :=
  fun _ => ⟨.inl rfl, rfl, rfl⟩

/-- On a platform of R42 whose lines list `ABSENT` alone, each line is absent as often as it lists. -/
theorem served_absentFirst (m : Lines Nat) :
    (launched (servedPlatform
      { clk := List.replicate m.clk .absent, update := List.replicate m.update .absent
        data := List.replicate m.data .absent, reset := List.replicate m.reset .absent })).AbsentFirst m := by
  intro i k
  cases i <;>
    simp only [State.probeAnswer, Feed.answer, linesGet, launched, State.launch, servedPlatform, List.getElem?_replicate] <;>
    split <;> rename_i h
  all_goals first | exact (if_pos h).symm | exact (if_neg h).symm

theorem witness_NamedPremisesServeWell :
    (launched (servedPlatform (linesAll []))).Healthy ∧
    (launched (servedPlatform (linesAll [.absent, .absent]))).HealthyAfterExport 2 ∧
    (launched (servedPlatform (linesAll []))).CleanLaunch :=
  ⟨⟨served_absentFirst (linesAll 0), served_goodAccesses _⟩,
    ⟨by decide, ⟨linesAll 2, fun i => by cases i <;> decide, served_absentFirst (linesAll 2)⟩, served_goodAccesses _⟩, rfl⟩
theorem witness_WellServedStaysWellServed :
    (let s := (launched (servedPlatform (linesAll [.absent, .absent]))).withInputs [.word 0x4100000000000000];
      s.WellServed ∧ ∃ t, step s = .next t) :=
  ⟨⟨⟨linesAll 2, fun i => by cases i <;> decide, served_absentFirst (linesAll 2)⟩, served_goodAccesses (linesAll [.absent, .absent]),
    by decide, rfl⟩, _, rfl⟩
theorem witness_FreqMaxOnlyFromSetFreq :
    exec (.setFreq 40000001 31) (launched (good 0)) = .next (after (.setFreq 40000001 31) (launched (good 0))) ∧
    (launched (good 0)).cause ≠ .eFreqMax ∧ (after (.setFreq 40000001 31) (launched (good 0))).cause = .eFreqMax ∧
    (ready .booted (good 0)).sess = .booted := ⟨rfl, by decide, by decide, rfl⟩
theorem witness_Composites :
    configValid (ready .booted (good 0)).cfg = true ∧ (ready .booted (good 0)).stuck = false ∧
    (ready .booted (good 0)).sess ≠ .halted ∧ (ready .booted (good 0)).lineIsOutput .data = true ∧
    (ready .booted (good 0)).lineIsOutput .clk = true ∧ (launched (good 0)).sess = .uninit ∧
    (launched (good 0)).stuck = false := by decide
theorem witness_ExceptionEndsTheSession :
    exec (.pulse .clk) (ready .booted (goodThen 0 (.fail 7))) =
      .next (after (.pulse .clk) (ready .booted (goodThen 0 (.fail 7)))) ∧
    (ready .booted (goodThen 0 (.fail 7))).cause = .none ∧
    (after (.pulse .clk) (ready .booted (goodThen 0 (.fail 7)))).cause = .eIo ∧
    (after (.setFreq 40000001 0) (launched (good 0))).cause = .eFreqMax := ⟨rfl, rfl, by decide, by decide⟩
theorem witness_HungAccess :
    (launched (platformOf (probesOf .clk [.hang]) [] [] [])).probeAnswer .clk 0 = .hang ∧
    (launched (platformOf (probesOf .clk [.absent]) [.hang] [] [])).exportAnswer 0 = .hang ∧
    (launched (platformOf (probesOf .clk [.absent]) [.hang] [] [])).probeAnswer .clk 0 = .absent ∧
    (launched (platformOf (probesOf .clk [.present]) [] [.hang] [])).dirAnswer 0 = .hang ∧
    (launched (platformOf (probesOf .clk [.present]) [] [.hang] [])).probeAnswer .clk 0 = .present ∧
    (ready .booted (goodThen 0 .hang)).writeAnswer 0 = .hang ∧
    (ready .booted (goodThen 0 .hang)).lineIsOutput .clk = true ∧
    (ready .booted (goodThen 0 .hang)).stuck = false ∧
    (after (.pulse .clk) (ready .booted (goodThen 0 .hang))).stuck = true := by decide
theorem witness_ErrinfoIsNeverRead :
    exec (.writeLevel .clk true) (ready .booted (good 1)) = .next (after (.writeLevel .clk true) (ready .booted (good 1))) ∧
    exec (.writeLevel .clk true) { ready .booted (good 1) with errinfo := some (.os 9) } =
      .next (after (.writeLevel .clk true) { ready .booted (good 1) with errinfo := some (.os 9) }) := ⟨rfl, rfl⟩
theorem witness_StepRunsTheDecodedCommand :
    ((launched (good 0)).withInputs [.word 0x3000000000000000]).stuck = false ∧
    ((launched (good 0)).withInputs [.word 0x3000000000000000]).inputs = [.word 0x3000000000000000] ∧
    decode 0x3000000000000000 = .ok .initializeLines := ⟨rfl, rfl, rfl⟩
theorem witness_CommandLinesAreCommands :
    ((launched (good 0)).withInputs [.line .noArguments]).inputs = [.line .noArguments] ∧
    ((launched (good 0)).withInputs [.line .unparsed]).inputs = [.line .unparsed] ∧
    ((launched (good 0)).withInputs [.line .shutdownFlag]).inputs = [.line .shutdownFlag] ∧
    ((launched (good 0)).withInputs [.line (.frequency (2 ^ 32 - 1) none)]).inputs = [.line (.frequency (2 ^ 32 - 1) none)] ∧
    ((launched (good 0)).withInputs [.line (.frequency 0 (some 31))]).inputs = [.line (.frequency 0 (some 31))] ∧
    ((launched (good 0)).withInputs [.line (.frequency (2 ^ 32) (some 0))]).inputs =
      [.line (.frequency (2 ^ 32) (some 0))] ∧
    ((launched (good 0)).withInputs [.line (.frequency 0 (some 256))]).inputs = [.line (.frequency 0 (some 256))] ∧
    ((launched (good 0)).withInputs [.line .noArguments]).stuck = false := ⟨rfl, rfl, rfl, rfl, rfl, rfl, rfl, rfl⟩
theorem witness_OmittedPhase : ',' ∉ "1000".toList ∧ asmNumber "1000".toList = some 1000 ∧ 1000 < 2 ^ 32 := by decide

/-- A booted state that meets the invariant. -/
theorem ready_coherent (p : Platform) : (ready .booted p).Coherent := by
  refine ⟨⟨fun i _ => by cases i <;> rfl, fun i _ => by cases i <;> rfl, fun _ => ready_allOutputs _ _⟩,
    ⟨?_, ?_, ?_, ?_, ?_, ?_⟩, fun _ _ i => ?_⟩
  · exact ⟨(fun h => nomatch h), fun h => absurd rfl h⟩
  · exact fun h => absurd rfl h
  · exact fun h => absurd rfl h
  · exact ⟨(fun h => nomatch h), fun h => absurd rfl h⟩
  · exact (fun h => nomatch h)
  · exact ⟨(fun h => nomatch h), fun h => absurd rfl h⟩
  · cases i <;> rfl

theorem witness_StepKeepsCoherent :
    ((ready .booted (good 24)).withInputs [.word 0x10A5000000000000]).Coherent ∧
    ∃ t, step ((ready .booted (good 24)).withInputs [.word 0x10A5000000000000]) = .next t := by
  refine ⟨?_, _, rfl⟩
  exact ready_coherent (good 24)
theorem witness_WritesFollowThePlan :
    (ready .booted (good 24)).Coherent ∧ (ready .booted (good 24)).cause = .none ∧ (ready .booted (good 24)).stuck = false ∧
    (ready .booted (good 24)).refused = false ∧
    (let t := after (.sendByte 0xA5) (ready .booted (good 24)); t.cause = .none ∧ t.stuck = false ∧ t.refused = false) ∧
    ∃ t, exec (.sendByte 0xA5) (ready .booted (good 24)) = .next t :=
  ⟨ready_coherent _, rfl, rfl, rfl, by decide, _, rfl⟩
theorem witness_BootstrapAsTheReceiverSeesIt :
    exec .initializeLines (launched lateLines) = .next (after .initializeLines (launched lateLines)) ∧
    (launched lateLines).CleanLaunch ∧ (launched lateLines).sess ≠ .booted ∧
    (after .initializeLines (launched lateLines)).sess = .booted := ⟨rfl, rfl, by decide, by decide +kernel⟩
theorem witness_ReceiverTakesTheControlWord :
    (ready .booted (good 122)).Coherent ∧ (ready .booted (good 122)).stuck = false ∧
    ((ready .booted (good 122)).pin .clk).level = some false ∧ ((ready .booted (good 122)).pin .update).level = some false ∧
    ((ready .booted (good 122)).pin .data).level ≠ none := ⟨ready_coherent _, rfl, rfl, rfl, by decide⟩
theorem witness_NoWrongWordIsLatched :
    (launched (goodThen 59 (.fail 7))).CleanLaunch ∧
    (∃ t, exec (.setFreq 1000000 10) (launched (goodThen 59 (.fail 7))) = .next t) ∧
    ∃ t, exec .shutdown (launched (goodThen 59 (.fail 7))) = .next t := ⟨rfl, ⟨_, rfl⟩, ⟨_, rfl⟩⟩

end Sys2Proof.Tests
end

section
/-! PROOFS. The refusals every command meets at its admission (R11, R82). -/

namespace Sys2Proof.Machine

/-! ## Valid configurations -/

/-- R110: what a valid configuration grants. -/
theorem configValid_iff (c : Config) :
    configValid c = true ↔
      (c.pins.clk ≠ c.pins.update ∧ c.pins.clk ≠ c.pins.data ∧ c.pins.clk ≠ c.pins.reset ∧
        c.pins.update ≠ c.pins.data ∧ c.pins.update ≠ c.pins.reset ∧ c.pins.data ≠ c.pins.reset) ∧
      1 ≤ c.exportMaxAttempts ∧ c.exitFreqMax ≠ 0 ∧ c.exitFreqMax ≠ 1 := by
  simp only [configValid, Bool.and_eq_true, decide_eq_true_eq, and_assoc]

/-- R11: in a valid configuration the line number determines the line. -/
theorem linesGet_pins_injective {c : Config} (h : configValid c = true) : Function.Injective (linesGet c.pins) := by
  obtain ⟨⟨hcu, hcd, hcr, hud, hur, hdr⟩, -⟩ := (configValid_iff c).mp h
  intro l m hlm
  cases l <;> cases m <;> simp_all [linesGet]

theorem configValid_of_equal_lines {c : Config} {l m : Line} (hlm : l ≠ m) (he : linesGet c.pins l = linesGet c.pins m) :
    configValid c = false :=
  Bool.eq_false_iff.mpr fun h => hlm (linesGet_pins_injective h he)

/-! ## Refusal at admission -/

theorem admission_badConfig {op : Opcode} {s : State} (h : configValid s.cfg = false) :
    admission op s = some .badConfig := by
  simp [admission, h]

theorem admitted_refuse {op : Opcode} {checks : State → Option RefusalReason} {body : State → Flow} {s : State}
    {r : RefusalReason} (h : admission op s = some r) : admitted op checks body s = .refuse r s := by
  simp [admitted, h]

/-- R96: every command's operation is an admission under the command's own row of R64, then its checks and its body. -/
theorem operation_eq_admitted (i : Instr) : ∃ checks body, operation i = admitted i.opcode checks body := by
  cases i with
  | writeLevel | pulse | sendByte | loadFrequency | setFreq => exact ⟨_, _, rfl⟩
  | ensureExported | setDirection | initializeLines | shutdown => exact ⟨noChecks, _, rfl⟩

/-- R96: a refusal at admission is all a command does. -/
theorem exec_of_admission_some {i : Instr} {s : State} {r : RefusalReason} (h : admission i.opcode s = some r) :
    exec i s = .next (s.refuse r) := by
  obtain ⟨checks, body, hop⟩ := operation_eq_admitted i
  rw [exec_eq_finish, hop, admitted_refuse h, finish_refuse]

/-- Settles O17: two equal line numbers make the configuration invalid, so the admission of any command refuses it. -/
theorem equalLineNumbersAreRefused : Obligations.EqualLineNumbersAreRefused := by
  intro i s l m hlm he
  exact exec_of_admission_some (admission_badConfig (configValid_of_equal_lines hlm he))

end Sys2Proof.Machine
end

section
/-! PROOFS. What a step can do, said once (R82, R99), and that it takes nothing back (R19 to R31). -/

namespace Sys2Proof.Machine

/-! ## A step refuses, or runs an operation of an open session -/

/-- R82: a halted session admits nothing. -/
theorem admission_of_halted (op : Opcode) {s : State} (h : s.sess = .halted) : ∃ r, admission op s = some r := by
  have hn : admission op s ≠ none := fun hn => by
    have ha := ((admission_eq_none_iff op s).mp hn).2
    rw [h] at ha
    cases op <;> cases ha
  exact Option.ne_none_iff_exists'.mp hn

/-- R82, R99: a step only refuses its input, or ends as the operation of a command does, of a block neither stuck nor halted. -/
theorem step_refuses_or_runs {s t : State} (h : step s = .next t) :
    ∃ rest, (∃ r, t = (s.withInputs rest).refuse r) ∨
      (s.sess ≠ .halted ∧ s.stuck = false ∧ ∃ i, t = (operation i (s.withInputs rest)).finish) := by
  obtain ⟨hstuck, -, rest, -, ⟨i, -, hi⟩ | ⟨r, -, rfl⟩⟩ := step_next h
  · by_cases hs : s.sess = .halted
    · obtain ⟨r, hr⟩ := admission_of_halted i.opcode (s := s.withInputs rest) hs
      rw [exec_of_admission_some hr] at hi
      cases hi
      exact ⟨rest, .inl ⟨r, rfl⟩⟩
    · rw [exec_eq_finish] at hi
      cases hi
      exact ⟨rest, .inr ⟨hs, hstuck, i, rfl⟩⟩
  · exact ⟨rest, .inl ⟨r, rfl⟩⟩

/-! ## The endings write the status fields only -/

@[simp] theorem finish_cfg (m : Flow) : m.finish.cfg = m.state.cfg := by cases m <;> rfl
@[simp] theorem finish_trace (m : Flow) : m.finish.trace = m.state.trace := by cases m <;> rfl
@[simp] theorem finish_pin (m : Flow) (i : Line) : m.finish.pin i = m.state.pin i := by cases m <;> rfl

/-- R27: no ending clears the refusal mark. -/
theorem finish_refused {m : Flow} (h : m.state.refused = true) : m.finish.refused = true := by
  cases m with
  | refuse => rfl
  | ok | raise | hang => exact h

/-- R17: a refusal extends the state. -/
theorem extends_refuse (s : State) (r : RefusalReason) : s.Extends (s.refuse r) :=
  ⟨rfl, List.prefix_rfl, fun _ h => h, fun _ => rfl, fun h => ⟨h, rfl⟩, fun _ => rfl⟩

/-- An operation that only makes progress extends a state whose session is open and free of a cause, however it ends. -/
theorem extends_finish {s : State} {m : Flow} (hp : Progress s m.state) (hc : s.cause = .none) (hs : s.sess ≠ .halted) :
    s.Extends m.finish :=
  ⟨by simpa using hp.cfg, by simpa using hp.trace, by simpa using hp.exported, fun h => absurd hc h, fun h => absurd h hs,
    fun h => finish_refused (hp.refused.trans h)⟩

/-- Settles O42: a step refuses, which only writes the mark, or runs an operation of an open session, where R23 leaves no cause
to clear and R22 no end to undo; what is left is the progress every operation makes. -/
theorem stepExtendsTheState : Obligations.StepExtendsTheState := by
  intro s t ⟨_, ⟨_, _, hcause, _⟩, _⟩ h
  obtain ⟨rest, ⟨r, rfl⟩ | ⟨hs, -, i, rfl⟩⟩ := step_refuses_or_runs h
  · exact extends_refuse (s.withInputs rest) r
  · exact extends_finish (s := s.withInputs rest) (progress_operation i _) (not_not.mp fun hc => hs (hcause hc)) hs

end Sys2Proof.Machine
end

section
/-! PROOFS. The invariant of the block (R19 to R25, R55, R97, R99, R113) is kept by every step. What an operation must meet
between two accesses is `Live`, the invariant of an open session; where it ends, its ending must give `Coherent`. -/

namespace Sys2Proof.Machine

/-! ## The records of the lines -/

/-- R19 to R21: an output is exported and a known level is that of an output. -/
def Pin.Coherent (p : Pin) : Prop := (p.dir = .out → p.exported = true) ∧ (p.level ≠ none → p.dir = .out)

/-- Every line's record is coherent. -/
def State.PinsCoherent (s : State) : Prop := ∀ i, (s.pin i).Coherent

theorem linesCoherent_iff (s : State) : s.LinesCoherent ↔ s.PinsCoherent ∧ (s.sess = .booted → s.AllOutputs) :=
  ⟨fun ⟨hexp, hlvl, hboot⟩ => ⟨fun i => ⟨hexp i, hlvl i⟩, hboot⟩,
    fun ⟨hpins, hboot⟩ => ⟨fun i => (hpins i).1, fun i => (hpins i).2, hboot⟩⟩

theorem pinsCoherent_setPin {s : State} {i : Line} {p : Pin} (h : s.PinsCoherent) (hp : p.Coherent) :
    (s.setPin i p).PinsCoherent := by
  intro j
  rw [State.pin_setPin]
  split
  · exact hp
  · exact h j

theorem lineIsOutput_iff (s : State) (i : Line) :
    s.lineIsOutput i = true ↔ (s.pin i).exported = true ∧ (s.pin i).dir = .out := by
  simp [State.lineIsOutput]

/-- A line stays an output where the record written, if it is the line's, is an output. -/
theorem lineIsOutput_setPin {s : State} {i j : Line} {p : Pin} (h : s.lineIsOutput j = true)
    (hp : j = i → p.exported = true ∧ p.dir = .out) : (s.setPin i p).lineIsOutput j = true := by
  rw [lineIsOutput_iff, State.pin_setPin] at *
  split
  · exact hp ‹_›
  · exact h

/-! ## The receiver's levels -/

/-- R55: `exportReq` events change nothing the receiver knows. -/
theorem seeAll_replicate_exportReq (r : Receiver) (i : Line) (m : Nat) : r.seeAll (List.replicate m (.exportReq i)) = r := by
  induction m with
  | zero => rfl
  | succ m ih => exact ih

/-- R21, R55: the receiver knows the levels the block last drove. -/
def State.LevelsSeen (s : State) : Prop := ∀ i, linesGet (receiverOf s.trace).lvl i = (s.pin i).level

/-- One event that brings a line to the level its new record holds keeps the receiver's levels those of the block. -/
theorem levelsSeen_setPin {s u : State} {i : Line} {p : Pin} {e : Event} (h : s.LevelsSeen)
    (hpins : u.pins = s.pins) (htrace : u.trace = s.trace ++ [e])
    (he : ((receiverOf s.trace).see e).lvl = linesSet (receiverOf s.trace).lvl i p.level) : (u.setPin i p).LevelsSeen := by
  intro j
  rw [State.setPin_trace, htrace, receiverOf_append, seeAll_cons, seeAll_nil, he, linesGet_linesSet, State.pin_setPin]
  split
  · rfl
  · rw [h j, State.pin, State.pin, hpins]

/-! ## The status of an open session -/

/-- R22 to R27, R99: the status fields while the session is open and no access has failed or hung. -/
structure State.StatusOpen (s : State) : Prop where
  sess : s.sess ≠ .halted
  cause : s.cause = .none
  errinfo : s.errinfo = none
  exit : s.exit = none
  stuck : s.stuck = false
  refusal : s.refused = true ↔ s.refusal ≠ none

/-- Progress with the session state unchanged leaves an open status open. -/
theorem State.StatusOpen.of_progress {s t : State} (h : s.StatusOpen) (hp : Progress s t) (hs : t.sess = s.sess)
    (he : t.exit = s.exit) : t.StatusOpen :=
  ⟨hs ▸ h.sess, hp.cause.trans h.cause, hp.errinfo.trans h.errinfo, he.trans h.exit, hp.stuck.trans h.stuck,
    by rw [hp.refused, hp.refusal]; exact h.refusal⟩

section

variable {s : State} (h : s.StatusOpen)
include h

theorem statusCoherent_of_open : s.StatusCoherent := by
  obtain ⟨hs, hc, hi, he, hk, hr⟩ := h
  simp [State.StatusCoherent, hs, hc, hi, he, hk, hr]

theorem statusCoherent_refuse (r : RefusalReason) : (s.refuse r).StatusCoherent := by
  obtain ⟨hs, hc, hi, he, hk, -⟩ := h
  simp [State.StatusCoherent, hs, hc, hi, he, hk]

theorem statusCoherent_hang : s.hang.StatusCoherent := by
  obtain ⟨hs, hc, hi, he, -, hr⟩ := h
  simp [State.StatusCoherent, hs, hc, hi, he, hr]

theorem statusCoherent_takeException (x : Exn) : (s.takeException x).StatusCoherent := by
  obtain ⟨-, -, hi, -, hk, hr⟩ := h
  cases x <;> simp [State.StatusCoherent, Exn.cause, Exn.errinfo, hi, hk, hr]

theorem statusCoherent_endSession : s.endSession.StatusCoherent := by
  obtain ⟨-, hc, hi, -, hk, hr⟩ := h
  simp [State.StatusCoherent, exitStatus, hc, hi, hk, hr]

end

/-! ## The invariant of an open session, and the endings that leave it -/

/-- What holds between two accesses of an operation. -/
structure State.Live (s : State) : Prop where
  status : s.StatusOpen
  pins : s.PinsCoherent
  booted : s.sess = .booted → s.AllOutputs
  levels : s.LevelsSeen

/-- A coherent block that is neither halted nor stuck is live. -/
theorem live_of_coherent {s : State} (h : s.Coherent) (hs : s.sess ≠ .halted) (hk : s.stuck = false) : s.Live := by
  obtain ⟨hlines, ⟨hexit, -, hcause, herr, -, href⟩, hlevels⟩ := h
  obtain ⟨hpins, hbooted⟩ := (linesCoherent_iff s).mp hlines
  have hc : s.cause = .none := not_not.mp fun hc => hs (hcause hc)
  have hio : s.cause ≠ .eIo := by simp [hc]
  exact ⟨⟨hs, hc, not_not.mp fun hi => hio (herr.mpr hi), not_not.mp fun he => hs (hexit.mpr he), hk, href⟩, hpins, hbooted,
    hlevels hk hio⟩

section

variable {s : State} (h : s.Live)
include h

theorem coherent_of_live : s.Coherent :=
  ⟨(linesCoherent_iff _).mpr ⟨h.pins, h.booted⟩, statusCoherent_of_open h.status, fun _ _ => h.levels⟩

theorem coherent_refuse_of_live (r : RefusalReason) : (s.refuse r).Coherent :=
  ⟨(linesCoherent_iff _).mpr ⟨h.pins, h.booted⟩, statusCoherent_refuse h.status r, fun _ _ => h.levels⟩

theorem coherent_freqMax_of_live : (s.takeException .freqMax).Coherent :=
  ⟨(linesCoherent_iff _).mpr ⟨h.pins, fun hb => nomatch hb⟩, statusCoherent_takeException h.status _, fun _ _ => h.levels⟩

theorem coherent_endSession_of_live : s.endSession.Coherent :=
  ⟨(linesCoherent_iff _).mpr ⟨h.pins, fun hb => nomatch hb⟩, statusCoherent_endSession h.status, fun _ _ => h.levels⟩

end

/-- R97: an `E_IO` asks nothing of the levels, and of the lines only that their records agree: the session ends. -/
theorem coherent_io {s : State} (h : s.StatusOpen) (hp : s.PinsCoherent) (info : ErrInfo) :
    (s.takeException (.io info)).Coherent :=
  ⟨(linesCoherent_iff _).mpr ⟨hp, fun hb => nomatch hb⟩, statusCoherent_takeException h _, fun _ hc => absurd rfl hc⟩

/-- R99: a hang asks nothing of the levels. -/
theorem coherent_hang {s : State} (h : s.StatusOpen) (hp : s.PinsCoherent) (hb : s.sess = .booted → s.AllOutputs) :
    s.hang.Coherent :=
  ⟨(linesCoherent_iff _).mpr ⟨hp, hb⟩, statusCoherent_hang h, fun hk => nomatch hk⟩

/-! ## Where an operation ends -/

/-- An operation ends well: completed, in a state that meets `P`; ended otherwise, in a coherent state. -/
def Flow.EndsIn (P : State → Prop) (m : Flow) : Prop :=
  match m with
  | .ok t => P t
  | .raise x t => (t.takeException x).Coherent
  | .hang t => t.hang.Coherent
  | .refuse r t => (t.refuse r).Coherent

theorem Flow.EndsIn.mono {P Q : State → Prop} {m : Flow} (h : m.EndsIn P) (hpq : ∀ t, P t → Q t) : m.EndsIn Q := by
  cases m with
  | ok t => exact hpq t h
  | raise | hang | refuse => exact h

theorem Flow.EndsIn.andThen {P Q : State → Prop} {m : Flow} {k : State → Flow} (h : m.EndsIn P)
    (hk : ∀ t, P t → (k t).EndsIn Q) : (m.andThen k).EndsIn Q := by
  cases m with
  | ok t => exact hk t h
  | raise | hang | refuse => exact h

/-- An operation that completes in coherent states ends in one, however it ends. -/
theorem Flow.EndsIn.finish {m : Flow} (h : m.EndsIn State.Coherent) : m.finish.Coherent := by
  cases m with
  | ok | raise | hang | refuse => exact h

/-- R17, R96: an operation that is refused at its admission or by its own checks has changed nothing. -/
theorem endsIn_admitted {P : State → Prop} {op : Opcode} {checks : State → Option RefusalReason} {body : State → Flow}
    {s : State} (h : s.Live) (hb : checks s = none → (body s).EndsIn P) : (admitted op checks body s).EndsIn P := by
  rcases admitted_cases op checks body s with ⟨r, -, e⟩ | ⟨r, -, -, e⟩ | ⟨-, -, hk, e⟩ <;> rw [e]
  · exact coherent_refuse_of_live h r
  · exact coherent_refuse_of_live h r
  · exact hb hk

/-! ## The operations of the pin driver -/

/-- A live state in which the lines of a list are outputs. -/
def State.LiveOn (l : List Line) (s : State) : Prop := s.Live ∧ ∀ j ∈ l, s.lineIsOutput j = true

theorem State.Live.on_nil {s : State} (h : s.Live) : s.LiveOn [] := ⟨h, fun _ hj => nomatch hj⟩

/-- An operation keeps the invariant, and the lines that are outputs. -/
def KeepsLive (op : State → Flow) : Prop := ∀ l s, s.LiveOn l → (op s).EndsIn (State.LiveOn l)

theorem keepsLive_andThen {op k : State → Flow} (h : KeepsLive op) (hk : KeepsLive k) :
    KeepsLive fun s => (op s).andThen k := fun l s hs => (h l s hs).andThen fun t => hk l t

theorem keepsLive_admitted {o : Opcode} {checks : State → Option RefusalReason} {body : State → Flow} (h : KeepsLive body) :
    KeepsLive (admitted o checks body) := fun l s hs => endsIn_admitted hs.1 fun _ => h l s hs

theorem keepsLive_forEach {α : Type} {op : α → State → Flow} (h : ∀ a, KeepsLive (op a)) (m : List α) :
    KeepsLive (forEach op m) := by
  induction m with
  | nil => exact fun l s hs => hs
  | cons a m ih => exact keepsLive_andThen (h a) ih

/-- R73: `m` requests, then the line seen present. -/
theorem liveOn_setExported {l : List Line} {s : State} (h : s.LiveOn l) (i : Line) (m : Nat) (p : Platform) :
    ((s.requested i m p).setExported i).LiveOn l := by
  obtain ⟨hlive, hout⟩ := h
  have out : ∀ j, s.lineIsOutput j = true → ((s.requested i m p).setExported i).lineIsOutput j = true := fun j hj =>
    lineIsOutput_setPin (s := s.requested i m p) hj fun e => ⟨rfl, e ▸ ((lineIsOutput_iff s j).mp hj).2⟩
  refine ⟨⟨hlive.status.of_progress ((progress_requested s i m p).trans' (progress_setExported _ i)) rfl rfl,
    pinsCoherent_setPin (s := s.requested i m p) hlive.pins ⟨fun _ => rfl, (hlive.pins i).2⟩,
    fun hb j => out j (hlive.booted hb j), fun j => ?_⟩, fun j hj => out j (hout j hj)⟩
  have hl : linesGet (receiverOf (s.trace ++ List.replicate m (.exportReq i))).lvl j = (s.pin j).level := by
    rw [receiverOf_append, seeAll_replicate_exportReq]
    exact hlive.levels j
  rw [State.pin_setExported]
  split
  · subst j; exact hl
  · exact hl

/-- R73: ENSURE_EXPORTED keeps the invariant and leaves the line exported. -/
theorem endsIn_ensureExported {l : List Line} {s : State} (h : s.LiveOn l) (i : Line) :
    (ensureExported i s).EndsIn fun t => t.LiveOn l ∧ (t.pin i).exported = true := by
  refine endsIn_admitted h.1 fun _ => ?_
  obtain ⟨m, -, p, e | ⟨info, e⟩ | e⟩ := exportLoop_cases i s.cfg.exportMaxAttempts s
  · rw [e]
    exact ⟨liveOn_setExported h i m p, by simp⟩
  · rw [e]
    exact coherent_io (h.1.status.of_progress (progress_requested s i m p) rfl rfl) h.1.pins info
  · rw [e]
    exact coherent_hang (h.1.status.of_progress (progress_requested s i m p) rfl rfl) h.1.pins h.1.booted

/-- R74: a direction write that answered `OK` makes an exported line an output of unknown level. -/
theorem liveOn_setDir {l : List Line} {s : State} (h : s.LiveOn l) {i : Line} (hi : (s.pin i).exported = true) :
    (((s.emit (.setDir i)).answered (linesAll 0) 0 1 0).setDir i .out).LiveOn (i :: l) := by
  obtain ⟨hlive, hout⟩ := h
  have out : ∀ j, j = i ∨ s.lineIsOutput j = true →
      (((s.emit (.setDir i)).answered (linesAll 0) 0 1 0).setDir i .out).lineIsOutput j = true := fun j hj => by
    rw [lineIsOutput_iff, State.pin_setDir]
    split
    · exact ⟨hi, rfl⟩
    · exact (lineIsOutput_iff s j).mp (hj.resolve_left ‹_›)
  exact ⟨⟨hlive.status.of_progress ((progress_emit s _ (linesAll 0) 0 1 0).trans' (progress_setDir _ i .out)) rfl rfl,
    pinsCoherent_setPin (s := (s.emit (.setDir i)).answered (linesAll 0) 0 1 0) hlive.pins
      ⟨fun _ => hi, fun hn => absurd rfl hn⟩,
    fun hb j => out j (.inr (hlive.booted hb j)), levelsSeen_setPin hlive.levels rfl rfl rfl⟩,
    fun j hj => out j ((List.mem_cons.mp hj).imp_right (hout j))⟩

/-- R74: the direction write of an exported line keeps the invariant and leaves the line an output. -/
theorem endsIn_writeDirection {l : List Line} {s : State} (h : s.LiveOn l) {i : Line} (hi : (s.pin i).exported = true) :
    (writeDirection i s).EndsIn (State.LiveOn (i :: l)) := by
  have hemit := progress_emit s (.setDir i) (linesAll 0) 0 1 0
  rcases writeDirection_cases i s with ⟨-, e⟩ | ⟨err, -, e⟩ | ⟨-, e⟩ <;> rw [e]
  · exact liveOn_setDir h hi
  · exact coherent_io (h.1.status.of_progress (hemit.trans' (progress_setDir _ i .unknown)) rfl rfl)
      (pinsCoherent_setPin (s := (s.emit (.setDir i)).answered (linesAll 0) 0 1 0) h.1.pins
        ⟨(fun hd => nomatch hd), fun hn => absurd rfl hn⟩) _
  · exact coherent_hang (h.1.status.of_progress hemit rfl rfl) h.1.pins h.1.booted

/-- R74: SET_DIRECTION keeps the invariant and leaves the line an output. -/
theorem endsIn_setDirection {l : List Line} {s : State} (h : s.LiveOn l) (i : Line) :
    (setDirection i s).EndsIn (State.LiveOn (i :: l)) :=
  endsIn_admitted h.1 fun _ => (endsIn_ensureExported h i).andThen fun _ ⟨ht, hi⟩ => endsIn_writeDirection ht hi

/-- R75: a level write to an output, taken over or not, keeps the records of the lines coherent. -/
theorem pinsCoherent_setLevel {s : State} (h : s.PinsCoherent) {i : Line} (hi : s.lineIsOutput i = true) (b : Option Bool) :
    (s.setLevel i b).PinsCoherent :=
  have ⟨hexp, hdir⟩ := (lineIsOutput_iff s i).mp hi
  pinsCoherent_setPin h ⟨fun _ => hexp, fun _ => hdir⟩

/-- R75: a level write to an output that answered `OK` leaves a live state with the outputs as they were. -/
theorem liveOn_wrote {l : List Line} {s : State} (h : s.LiveOn l) {p : Line × Bool} (hi : s.lineIsOutput p.1 = true) :
    (s.wrote p).LiveOn l := by
  obtain ⟨hlive, hout⟩ := h
  exact ⟨⟨hlive.status.of_progress ((progress_emit s _ (linesAll 0) 0 0 1).trans' (progress_setLevel _ p.1 _)) rfl rfl,
    pinsCoherent_setLevel (s := (s.emit (writeEvent p)).answered (linesAll 0) 0 0 1) hlive.pins hi _,
    fun hb j => (wrote_lineIsOutput s p j).trans (hlive.booted hb j),
    levelsSeen_setPin hlive.levels rfl rfl (lvl_see_write _ p.1 p.2)⟩,
    fun j hj => (wrote_lineIsOutput s p j).trans (hout j hj)⟩

/-- R75: the level write of an output keeps the invariant. -/
theorem endsIn_driveLevel {l : List Line} {s : State} (h : s.LiveOn l) {i : Line} (hi : s.lineIsOutput i = true) (b : Bool) :
    (driveLevel i b s).EndsIn (State.LiveOn l) := by
  have hemit := progress_emit s (.write i b) (linesAll 0) 0 0 1
  rcases driveLevel_cases i b s with ⟨-, e⟩ | ⟨err, -, e⟩ | ⟨-, e⟩ <;> rw [e]
  · exact liveOn_wrote h hi
  · exact coherent_io (h.1.status.of_progress (hemit.trans' (progress_setLevel _ i none)) rfl rfl)
      (pinsCoherent_setLevel (s := (s.emit (.write i b)).answered (linesAll 0) 0 0 1) h.1.pins hi none) _
  · exact coherent_hang (h.1.status.of_progress hemit rfl rfl) h.1.pins h.1.booted

theorem lineIsOutput_of_lineCheck {i : Line} {s : State} (h : lineCheck i s = none) : s.lineIsOutput i = true := by
  simpa [lineCheck] using h

theorem keepsLive_writeLevel (i : Line) (b : Bool) : KeepsLive (writeLevel i b) := fun _ _ h =>
  endsIn_admitted h.1 fun hk => endsIn_driveLevel h (lineIsOutput_of_lineCheck hk) b

theorem keepsLive_pulse (i : Line) : KeepsLive (pulse i) :=
  keepsLive_admitted (keepsLive_andThen (keepsLive_writeLevel i true) (keepsLive_writeLevel i false))

/-! ## The serializer, the encoder and the session -/

theorem keepsLive_sendBits (n : Nat) (v : Byte) : KeepsLive (sendBits n v) := by
  induction n generalizing v with
  | zero => exact fun _ _ h => h
  | succ n ih =>
    exact keepsLive_andThen (keepsLive_andThen (keepsLive_writeLevel .data _) (keepsLive_pulse .clk)) (ih _)

theorem keepsLive_sendByte (v : Byte) : KeepsLive (sendByte v) := keepsLive_admitted (keepsLive_sendBits 8 v)

theorem keepsLive_loadFrequency (f phase : Nat) (d : Bool) : KeepsLive (loadFrequency f phase d) :=
  keepsLive_admitted (keepsLive_andThen (keepsLive_forEach keepsLive_sendByte _) (keepsLive_pulse .update))

/-- R83: the first part of the bootstrap makes each of its lines an output. -/
theorem endsIn_prepareLines {l : List Line} {s : State} (h : s.LiveOn l) (m : List Line) :
    (forEach prepareLine m s).EndsIn (State.LiveOn (m ++ l)) := by
  induction m generalizing l s with
  | nil => exact h
  | cons i m ih =>
    have hprep : (prepareLine i s).EndsIn (State.LiveOn (i :: l)) :=
      (endsIn_ensureExported h i).andThen fun _ ⟨ht, _⟩ => endsIn_setDirection ht i
    refine hprep.andThen fun t ht => (ih ht).mono fun u ⟨hu, hout⟩ => ⟨hu, fun j hj => hout j ?_⟩
    exact List.perm_middle.symm.subset hj

/-- R113: with every line an output the session may become `BOOTED`. -/
theorem live_boot {s : State} (h : s.LiveOn allLines) : s.boot.Live := by
  obtain ⟨⟨hstatus, hpins, -, hlevels⟩, hout⟩ := h
  obtain ⟨-, hc, hi, he, hk, hr⟩ := hstatus
  exact ⟨⟨(fun hb => nomatch hb), hc, hi, he, hk, hr⟩, hpins, fun _ j => hout j (by cases j <;> simp [allLines]), hlevels⟩

theorem endsIn_initializeLines {s : State} (h : s.Live) : (initializeLines s).EndsIn State.Live := by
  refine endsIn_admitted h fun _ => ?_
  refine (endsIn_prepareLines h.on_nil allLines).andThen fun s1 h1 => ?_
  refine (keepsLive_forEach (fun i => keepsLive_writeLevel i false) Config.initLowOrder _ s1 h1).andThen fun s2 h2 => ?_
  exact (keepsLive_forEach keepsLive_pulse _ _ s2 h2).andThen fun s3 h3 => live_boot h3

theorem endsIn_bootAndLoad {s : State} (h : s.Live) (f phase : Nat) (d : Bool) :
    (bootAndLoad f phase d s).EndsIn State.Coherent :=
  (endsIn_initializeLines h).andThen fun s1 h1 =>
    (keepsLive_loadFrequency f phase d [] s1 h1.on_nil).andThen fun _ h2 => coherent_endSession_of_live h2.1

theorem endsIn_setFreq {s : State} (h : s.Live) (f phase : Nat) : (setFreq f phase s).EndsIn State.Coherent := by
  refine endsIn_admitted h fun _ => ?_
  split
  · exact coherent_freqMax_of_live h
  · exact endsIn_bootAndLoad h f phase false

theorem endsIn_shutdown {s : State} (h : s.Live) : (shutdown s).EndsIn State.Coherent :=
  endsIn_admitted h fun _ => endsIn_bootAndLoad h 0 0 true

/-! ## Every command -/

theorem KeepsLive.endsIn_coherent {op : State → Flow} (hop : KeepsLive op) {s : State} (h : s.Live) :
    (op s).EndsIn State.Coherent := (hop [] s h.on_nil).mono fun _ ht => coherent_of_live ht.1

/-- Every command's operation, begun in a live state, ends well. -/
theorem endsIn_operation {s : State} (h : s.Live) (i : Instr) : (operation i s).EndsIn State.Coherent := by
  cases i with
  | ensureExported i => exact (endsIn_ensureExported h.on_nil i).mono fun _ ⟨ht, _⟩ => coherent_of_live ht.1
  | setDirection i => exact (endsIn_setDirection h.on_nil i).mono fun _ ht => coherent_of_live ht.1
  | writeLevel i b => exact (keepsLive_writeLevel i b).endsIn_coherent h
  | pulse i => exact (keepsLive_pulse i).endsIn_coherent h
  | sendByte v => exact (keepsLive_sendByte v).endsIn_coherent h
  | loadFrequency f p d => exact (keepsLive_loadFrequency f p d).endsIn_coherent h
  | initializeLines => exact (endsIn_initializeLines h).mono fun _ => coherent_of_live
  | setFreq f p => exact endsIn_setFreq h f p
  | shutdown => exact endsIn_shutdown h

/-- R17: a refusal keeps the invariant in every session state. -/
theorem coherent_refuse {s : State} (h : s.Coherent) (r : RefusalReason) : (s.refuse r).Coherent := by
  obtain ⟨hlines, ⟨hexit, hval, hcause, herr, hstuck, -⟩, hlevels⟩ := h
  exact ⟨hlines, ⟨hexit, hval, hcause, herr, hstuck, by simp⟩, hlevels⟩

/-- Settles O41: a step refuses, which touches the refusal mark alone, or runs an operation from a live state. -/
theorem stepKeepsCoherent : Obligations.StepKeepsCoherent := by
  intro s t hs h
  obtain ⟨rest, ⟨r, rfl⟩ | ⟨hopen, hstuck, i, rfl⟩⟩ := step_refuses_or_runs h
  · exact coherent_refuse (s := s.withInputs rest) hs r
  · exact (endsIn_operation (live_of_coherent (s := s.withInputs rest) hs hopen hstuck) i).finish

end Sys2Proof.Machine
end

section
/-! PROOFS. No rule reads `errinfo` (R24): every operation, begun in a state with another `errinfo`, makes the same accesses
and ends in the same way, in the same state but for that field. -/

namespace Sys2Proof.Machine

/-- The state with another `errinfo`. -/
def State.withErrinfo (e : Option ErrInfo) (s : State) : State := { s with errinfo := e }

/-- The same ending, in the state with another `errinfo`. -/
def Flow.withErrinfo (e : Option ErrInfo) (m : Flow) : Flow :=
  match m with
  | .ok s => .ok (s.withErrinfo e)
  | .raise x s => .raise x (s.withErrinfo e)
  | .hang s => .hang (s.withErrinfo e)
  | .refuse r s => .refuse r (s.withErrinfo e)

/-- An operation that does not read `errinfo` and does not write it before its end. -/
def ErrinfoBlind (op : State → Flow) : Prop := ∀ s e, op (s.withErrinfo e) = (op s).withErrinfo e

/-! ## The ways operations are put together -/

theorem andThen_withErrinfo (m : Flow) {k : State → Flow} (hk : ErrinfoBlind k) (e : Option ErrInfo) :
    (m.withErrinfo e).andThen k = (m.andThen k).withErrinfo e := by
  cases m with
  | ok s => exact hk s e
  | raise | hang | refuse => rfl

theorem errinfoBlind_andThen {op k : State → Flow} (h : ErrinfoBlind op) (hk : ErrinfoBlind k) :
    ErrinfoBlind fun s => (op s).andThen k := fun s e =>
  (congrArg (·.andThen k) (h s e)).trans (andThen_withErrinfo (op s) hk e)

theorem errinfoBlind_forEach {α : Type} {op : α → State → Flow} (h : ∀ a, ErrinfoBlind (op a)) (l : List α) :
    ErrinfoBlind (forEach op l) := by
  induction l with
  | nil => exact fun _ _ => rfl
  | cons a l ih => exact errinfoBlind_andThen (h a) ih

/-- The admission reads the configuration and the session; of the checks it is asked. -/
theorem errinfoBlind_admitted {o : Opcode} {checks : State → Option RefusalReason} {body : State → Flow}
    (hc : ∀ s e, checks (s.withErrinfo e) = checks s) (h : ErrinfoBlind body) : ErrinfoBlind (admitted o checks body) := by
  intro s e
  have ha : admission o (s.withErrinfo e) = admission o s := rfl
  unfold admitted
  rw [ha, hc s e]
  rcases admission o s with _ | r
  · rcases checks s with _ | r
    · exact h s e
    · rfl
  · rfl

/-! ## The operations -/

theorem errinfoBlind_exportLoop (i : Line) (left : Nat) : ErrinfoBlind (exportLoop i left) := by
  induction left with
  | zero =>
    intro s e
    have hp : (s.withErrinfo e).probeAnswer i 0 = s.probeAnswer i 0 := rfl
    simp only [exportLoop, pinProbe, hp]
    cases s.probeAnswer i 0 <;> rfl
  | succ left ih =>
    intro s e
    have hp : (s.withErrinfo e).probeAnswer i 0 = s.probeAnswer i 0 := rfl
    have hx : ((s.withErrinfo e).answered (countOf i 1) 0 0 0).exportAnswer 0 =
        (s.answered (countOf i 1) 0 0 0).exportAnswer 0 := rfl
    simp only [exportLoop, pinProbe, pinExport, delay, hp]
    cases s.probeAnswer i 0 with
    | present | fail | hang => rfl
    | absent =>
      simp only [hx]
      cases (s.answered (countOf i 1) 0 0 0).exportAnswer 0 with
      | ok | already => exact ih (((s.answered (countOf i 1) 0 0 0).emit (.exportReq i)).answered (linesAll 0) 1 0 0) e
      | fail | hang => rfl

theorem errinfoBlind_ensureExported (i : Line) : ErrinfoBlind (ensureExported i) :=
  errinfoBlind_admitted (fun _ _ => rfl) fun s => errinfoBlind_exportLoop i s.cfg.exportMaxAttempts s

theorem errinfoBlind_writeDirection (i : Line) : ErrinfoBlind (writeDirection i) := by
  intro s e
  have hd : (s.withErrinfo e).dirAnswer 0 = s.dirAnswer 0 := rfl
  simp only [writeDirection, pinSetDir, hd]
  cases s.dirAnswer 0 <;> rfl

theorem errinfoBlind_setDirection (i : Line) : ErrinfoBlind (setDirection i) :=
  errinfoBlind_admitted (fun _ _ => rfl)
    (errinfoBlind_andThen (errinfoBlind_ensureExported i) (errinfoBlind_writeDirection i))

theorem errinfoBlind_driveLevel (i : Line) (b : Bool) : ErrinfoBlind (driveLevel i b) := by
  intro s e
  have hw : (s.withErrinfo e).writeAnswer 0 = s.writeAnswer 0 := rfl
  simp only [driveLevel, pinWrite, hw]
  cases s.writeAnswer 0 <;> rfl

theorem errinfoBlind_writeLevel (i : Line) (b : Bool) : ErrinfoBlind (writeLevel i b) :=
  errinfoBlind_admitted (fun _ _ => rfl) (errinfoBlind_driveLevel i b)

theorem errinfoBlind_pulse (i : Line) : ErrinfoBlind (pulse i) :=
  errinfoBlind_admitted (fun _ _ => rfl)
    (errinfoBlind_andThen (errinfoBlind_writeLevel i true) (errinfoBlind_writeLevel i false))

theorem errinfoBlind_sendBits (n : Nat) (v : Byte) : ErrinfoBlind (sendBits n v) := by
  induction n generalizing v with
  | zero => exact fun _ _ => rfl
  | succ n ih =>
    exact errinfoBlind_andThen
      (errinfoBlind_andThen (errinfoBlind_writeLevel .data _) (errinfoBlind_pulse .clk)) (ih _)

theorem errinfoBlind_sendByte (v : Byte) : ErrinfoBlind (sendByte v) :=
  errinfoBlind_admitted (fun _ _ => rfl) (errinfoBlind_sendBits 8 v)

theorem errinfoBlind_loadFrequency (f phase : Nat) (d : Bool) : ErrinfoBlind (loadFrequency f phase d) :=
  errinfoBlind_admitted (fun _ _ => rfl)
    (errinfoBlind_andThen (errinfoBlind_forEach errinfoBlind_sendByte _) (errinfoBlind_pulse .update))

theorem errinfoBlind_bootstrap : ErrinfoBlind bootstrap :=
  errinfoBlind_andThen
    (errinfoBlind_forEach (fun i => errinfoBlind_andThen (errinfoBlind_ensureExported i) (errinfoBlind_setDirection i)) _) <|
  errinfoBlind_andThen (errinfoBlind_forEach (fun i => errinfoBlind_writeLevel i false) _) <|
  errinfoBlind_andThen (errinfoBlind_forEach errinfoBlind_pulse _) fun _ _ => rfl

theorem errinfoBlind_initializeLines : ErrinfoBlind initializeLines :=
  errinfoBlind_admitted (fun _ _ => rfl) errinfoBlind_bootstrap

theorem errinfoBlind_bootAndLoad (f phase : Nat) (d : Bool) : ErrinfoBlind (bootAndLoad f phase d) :=
  errinfoBlind_andThen errinfoBlind_initializeLines <|
  errinfoBlind_andThen (errinfoBlind_loadFrequency f phase d) fun _ _ => rfl

theorem errinfoBlind_setFreq (f phase : Nat) : ErrinfoBlind (setFreq f phase) := by
  refine errinfoBlind_admitted (fun _ _ => rfl) fun s e => ?_
  split
  · rfl
  · exact errinfoBlind_bootAndLoad f phase false s e

theorem errinfoBlind_shutdown : ErrinfoBlind shutdown :=
  errinfoBlind_admitted (fun _ _ => rfl) (errinfoBlind_bootAndLoad 0 0 true)

/-- R24: no command's operation reads `errinfo`. -/
theorem errinfoBlind_operation (i : Instr) : ErrinfoBlind (operation i) := by
  cases i with
  | ensureExported i => exact errinfoBlind_ensureExported i
  | setDirection i => exact errinfoBlind_setDirection i
  | writeLevel i b => exact errinfoBlind_writeLevel i b
  | pulse i => exact errinfoBlind_pulse i
  | sendByte v => exact errinfoBlind_sendByte v
  | loadFrequency f p d => exact errinfoBlind_loadFrequency f p d
  | initializeLines => exact errinfoBlind_initializeLines
  | setFreq f p => exact errinfoBlind_setFreq f p
  | shutdown => exact errinfoBlind_shutdown

/-- R97 (b): an `E_IO` overwrites `errinfo`, so the end is the same; every other ending leaves it as it is. -/
theorem finish_withErrinfo (m : Flow) (e : Option ErrInfo) :
    (m.withErrinfo e).finish = m.finish ∨
      ((m.withErrinfo e).finish = m.finish.withErrinfo e ∧ m.finish.errinfo = m.state.errinfo) := by
  cases m with
  | ok | hang | refuse => exact .inr ⟨rfl, rfl⟩
  | raise x s =>
    cases x with
    | io info => exact .inl rfl
    | freqMax => exact .inr ⟨rfl, rfl⟩

/-- Settles O36: the operation is blind to `errinfo`, so the two ends are equal after an `E_IO`, and otherwise differ in
`errinfo` alone, which no operation has written. -/
theorem errinfoIsNeverRead : Obligations.ErrinfoIsNeverRead := by
  intro i s t t' e ht ht'
  have hblind : exec i (s.withErrinfo e) = .next ((operation i s).withErrinfo e).finish := by
    rw [exec_eq_finish, errinfoBlind_operation i s e]
  rw [exec_eq_finish] at ht
  cases ht
  cases hblind.symm.trans ht'
  rcases finish_withErrinfo (operation i s) e with h | ⟨h, hkept⟩ <;> rw [h]
  · exact ⟨rfl, .inl rfl⟩
  · exact ⟨rfl, .inr ⟨hkept.trans (progress_operation i s).errinfo, rfl⟩⟩

end Sys2Proof.Machine
end

section
/-! PROOFS. The walk over the operations, made once. A property of an operation and of the direction and level writes planned
for it (R89) holds of every command where it holds of the accesses and goes through sequences and admissions. -/

namespace Sys2Proof.Machine

/-- What a property of planned writes and operations must meet to hold of every command. -/
structure OperationRules (P : List Event → (State → Flow) → Prop) : Prop where
  done : P [] .ok
  andThen : ∀ {l m : List Event} {op k : State → Flow}, P l op → P m k → P (l ++ m) fun s => (op s).andThen k
  admitted : ∀ {l : List Event} {o : Opcode} {checks : State → Option RefusalReason} {body : State → Flow},
    P l body → P l (admitted o checks body)
  exportLine : ∀ i, P [] fun s => exportLoop i s.cfg.exportMaxAttempts s
  writeDirection : ∀ i, P [.setDir i] (writeDirection i)
  driveLevel : ∀ i b, P [.write i b] (driveLevel i b)
  boot : P [] fun s => .ok s.boot
  endSession : P [] fun s => .ok s.endSession
  freqMax : ∀ l, P l (.raise .freqMax)

namespace OperationRules

variable {P : List Event → (State → Flow) → Prop} (h : OperationRules P)
include h

theorem forEach {α : Type} {plan : α → List Event} {op : α → State → Flow} (hop : ∀ a, P (plan a) (op a)) (l : List α) :
    P (l.flatMap plan) (forEach op l) := by
  induction l with
  | nil => exact h.done
  | cons a l ih => exact h.andThen (hop a) ih

theorem ensureExported (i : Line) : P [] (ensureExported i) := h.admitted (h.exportLine i)

theorem setDirection (i : Line) : P [.setDir i] (setDirection i) :=
  h.admitted (h.andThen (h.ensureExported i) (h.writeDirection i))

theorem writeLevel (i : Line) (b : Bool) : P [.write i b] (writeLevel i b) := h.admitted (h.driveLevel i b)

theorem pulse (i : Line) : P (pulseEvents i) (pulse i) :=
  h.admitted (h.andThen (h.writeLevel i true) (h.writeLevel i false))

theorem sendBits (n : Nat) (v : Byte) :
    P ((List.range n).flatMap fun k => bitEvents (v.getLsbD k)) (sendBits n v) := by
  induction n generalizing v with
  | zero => exact h.done
  | succ n ih =>
    have hbits : ((List.range (n + 1)).flatMap fun k => bitEvents (v.getLsbD k)) =
        bitEvents (v.getLsbD 0) ++ (List.range n).flatMap fun k => bitEvents ((v >>> 1).getLsbD k) := by
      simp [List.range_succ_eq_map, List.flatMap_map, Nat.add_comm]
    rw [hbits]
    exact h.andThen (h.andThen (h.writeLevel .data _) (h.pulse .clk)) (ih (v >>> 1))

theorem sendByte (v : Byte) : P (byteEvents v) (sendByte v) := h.admitted (h.sendBits 8 v)

theorem loadFrequency (f phase : Nat) (d : Bool) : P (frameEvents (frameOf f phase d)) (loadFrequency f phase d) :=
  h.admitted (h.andThen (h.forEach h.sendByte _) (h.pulse .update))

theorem initializeLines : P bootstrapEvents initializeLines := by
  have hprepare := h.forEach (fun i => h.andThen (h.ensureExported i) (h.setDirection i)) allLines
  have hlow := h.forEach (fun i => h.writeLevel i false) Config.initLowOrder
  have hpulse := h.forEach h.pulse [.reset, .clk, .update]
  have hbody := h.andThen hprepare (h.andThen hlow (h.andThen hpulse h.boot))
  exact h.admitted hbody

theorem bootAndLoad (f phase : Nat) (d : Bool) :
    P (bootstrapEvents ++ frameEvents (frameOf f phase d)) (bootAndLoad f phase d) := by
  have hload := h.andThen h.initializeLines (h.andThen (h.loadFrequency f phase d) h.endSession)
  rwa [List.append_nil] at hload

theorem setFreq (f phase : Nat) : P (bootstrapEvents ++ frameEvents (frameOf f phase false)) (setFreq f phase) := by
  refine h.admitted ?_
  by_cases hf : f > Config.fmax
  · simpa only [if_pos hf] using h.freqMax _
  · simpa only [if_neg hf] using h.bootAndLoad f phase false

theorem shutdown : P (bootstrapEvents ++ frameEvents (frameOf 0 0 true)) shutdown := h.admitted (h.bootAndLoad 0 0 true)

/-- Every command, with the writes R89 plans for it. -/
theorem operation (i : Instr) : P (plannedEvents i) (operation i) := by
  cases i with
  | ensureExported i => exact h.ensureExported i
  | setDirection i => exact h.setDirection i
  | writeLevel i b => exact h.writeLevel i b
  | pulse i => exact h.pulse i
  | sendByte v => exact h.sendByte v
  | loadFrequency f p d => exact h.loadFrequency f p d
  | initializeLines => exact h.initializeLines
  | setFreq f p => exact h.setFreq f p
  | shutdown => exact h.shutdown

end OperationRules

end Sys2Proof.Machine
end

section
/-! PROOFS. A platform that serves the block well (R42) goes on doing so: no access it answers fails or hangs. -/

namespace Sys2Proof.Machine

/-- R42: the platform's part of `WellServed`. -/
def State.PlatformServes (s : State) : Prop :=
  (∃ m : Lines Nat, (∀ i, linesGet m i ≤ s.cfg.exportMaxAttempts) ∧ s.AbsentFirst m) ∧ s.GoodAccesses

theorem wellServed_iff (s : State) : s.WellServed ↔ s.PlatformServes ∧ s.cause ≠ .eIo ∧ s.stuck = false := by
  simp only [State.WellServed, State.PlatformServes, and_assoc]

/-- R42: a platform that serves well serves well after any accesses. -/
theorem platformServes_answered {s : State} (h : s.PlatformServes) (a : Lines Nat) (b c d : Nat) :
    (s.answered a b c d).PlatformServes := by
  obtain ⟨⟨m, hm, habs⟩, hgood⟩ := h
  refine ⟨⟨_, fun i => ?_, absentFirst_answered habs a b c d⟩, goodAccesses_answered hgood a b c d⟩
  refine le_trans ?_ (hm i)
  cases i <;> exact Nat.sub_le _ _

/-! ## The endings a platform that serves well allows -/

/-- An operation ends, without `E_IO` and without a hang, in a state whose platform serves well. -/
def Flow.Served (m : Flow) : Prop :=
  match m with
  | .ok t => t.PlatformServes
  | .raise x t => x = .freqMax ∧ t.PlatformServes
  | .hang _ => False
  | .refuse _ t => t.PlatformServes

/-- An operation that a platform which serves well lets end so. -/
def KeepsServed (op : State → Flow) : Prop := ∀ s, s.PlatformServes → (op s).Served

theorem keepsServed_andThen {op k : State → Flow} (h : KeepsServed op) (hk : KeepsServed k) :
    KeepsServed fun s => (op s).andThen k := by
  intro s hs
  have hop := h s hs
  dsimp only
  cases ho : op s <;> rw [ho] at hop
  case ok t => exact hk t hop
  case raise | hang | refuse => exact hop

theorem keepsServed_admitted {o : Opcode} {checks : State → Option RefusalReason} {body : State → Flow}
    (h : KeepsServed body) : KeepsServed (admitted o checks body) := by
  intro s hs
  rcases admitted_cases o checks body s with ⟨r, -, e⟩ | ⟨r, -, -, e⟩ | ⟨-, -, -, e⟩ <;> rw [e]
  · exact hs
  · exact hs
  · exact h s hs

/-! ## The accesses -/

/-- R73: a line present after `m` requests, at most as many as allowed, ends the loop well. -/
theorem exportLoop_present {i : Line} {m left : Nat} {s : State} (hm : m ≤ left) (h : s.PresentAfter i m) :
    exportLoop i left s = .ok ((s.requested i m (s.platform.after (countOf i (m + 1)) m 0 0)).setExported i) := by
  obtain ⟨habs, hexp, hpres⟩ := h
  have hlast : (s.requested i m (s.platform.after (countOf i m) m 0 0)).probeAnswer i 0 = .present := by
    simpa [State.requested, State.probeAnswer, Platform.after] using hpres
  have hlater : (s.requested i m (s.platform.after (countOf i m) m 0 0)).answered (countOf i 1) 0 0 0 =
      s.requested i m (s.platform.after (countOf i (m + 1)) m 0 0) := by
    simp [State.answered, State.requested]
  rw [exportLoop_absent i m left s hm habs hexp]
  cases left - m <;> simp [exportLoop, pinProbe, hlast, hlater]

theorem keepsServed_exportLine (i : Line) : KeepsServed fun s => exportLoop i s.cfg.exportMaxAttempts s := by
  intro s hs
  have ⟨⟨m, hm, habs⟩, hgood⟩ := hs
  dsimp only
  rw [exportLoop_present (hm i) (presentAfter_of_absentFirst habs hgood i)]
  exact platformServes_answered hs (countOf i (linesGet m i + 1)) (linesGet m i) 0 0

theorem keepsServed_writeDirection (i : Line) : KeepsServed (writeDirection i) := by
  intro s hs
  have hok : s.dirAnswer 0 = .ok := (hs.2 0).2.1
  rcases writeDirection_cases i s with ⟨-, e⟩ | ⟨_, hf, -⟩ | ⟨hf, -⟩
  · rw [e]
    exact platformServes_answered hs (linesAll 0) 0 1 0
  · cases hok.symm.trans hf
  · cases hok.symm.trans hf

theorem keepsServed_driveLevel (i : Line) (b : Bool) : KeepsServed (driveLevel i b) := by
  intro s hs
  have hok : s.writeAnswer 0 = .ok := (hs.2 0).2.2
  rcases driveLevel_cases i b s with ⟨-, e⟩ | ⟨_, hf, -⟩ | ⟨hf, -⟩
  · rw [e]
    exact platformServes_answered hs (linesAll 0) 0 0 1
  · cases hok.symm.trans hf
  · cases hok.symm.trans hf

/-! ## Every command -/

theorem operationRules_keepsServed : OperationRules fun _ op => KeepsServed op where
  done := fun _ hs => hs
  andThen := keepsServed_andThen
  admitted := keepsServed_admitted
  exportLine := keepsServed_exportLine
  writeDirection := keepsServed_writeDirection
  driveLevel := keepsServed_driveLevel
  boot := fun _ hs => hs
  endSession := fun _ hs => hs
  freqMax := fun _ _ hs => ⟨rfl, hs⟩

/-- R97, R99: an operation that ends so leaves the cause other than `E_IO` and the block not stuck. -/
theorem wellServed_finish {s : State} {m : Flow} (hm : m.Served) (hp : Progress s m.state) (hc : s.cause ≠ .eIo)
    (hk : s.stuck = false) : m.finish.WellServed := by
  have hc' : m.state.cause ≠ .eIo := hp.cause ▸ hc
  have hk' : m.state.stuck = false := hp.stuck.trans hk
  rw [wellServed_iff]
  cases m with
  | ok | refuse => exact ⟨hm, hc', hk'⟩
  | raise x t =>
    obtain ⟨rfl, hserves⟩ := hm
    exact ⟨hserves, (fun h => nomatch h), hk'⟩
  | hang => exact hm.elim

/-- Settles O49: a step refuses, which leaves the platform alone, or runs an operation, whose every access such a platform
answers well. -/
theorem wellServedStaysWellServed : Obligations.WellServedStaysWellServed := by
  intro s t hs h
  obtain ⟨hserves, hc, hk⟩ := (wellServed_iff s).mp hs
  obtain ⟨rest, ⟨r, rfl⟩ | ⟨-, -, i, rfl⟩⟩ := step_refuses_or_runs h
  · exact hs
  · exact wellServed_finish (operationRules_keepsServed.operation i (s.withInputs rest) hserves) (progress_operation i _) hc hk

/-- Settles O50: at launch no access has failed or hung, and `Healthy` and `HealthyAfterExport` bound the absent probes of each
line by 0 and by `n`. -/
theorem namedPremisesServeWell : Obligations.NamedPremisesServeWell := by
  intro s hs
  have hc : s.cause ≠ .eIo := by rw [hs]; exact fun h => nomatch h
  have hk : s.stuck = false := by rw [hs]; rfl
  refine ⟨fun ⟨habs, hgood⟩ => ?_, fun n ⟨hn, ⟨m, hm, habs⟩, hgood⟩ => ?_⟩
  · exact ⟨⟨linesAll 0, by simp, habs⟩, hgood, hc, hk⟩
  · exact ⟨⟨m, fun i => (hm i).2.trans hn, habs⟩, hgood, hc, hk⟩

end Sys2Proof.Machine
end

section
/-! PROOFS. Whatever the platform answers, a command makes its direction and level writes in the planned order (R52, R89). -/

namespace Sys2Proof.Machine

/-- R26: the direction and level writes among some events. -/
def writesOf (l : List Event) : List Event := l.filter fun e => !e.isExport

@[simp] theorem writesOf_append (l m : List Event) : writesOf (l ++ m) = writesOf l ++ writesOf m := List.filter_append ..

@[simp] theorem writesOf_requests (i : Line) (m : Nat) : writesOf (List.replicate m (.exportReq i)) = [] := by
  simp [writesOf, Event.isExport]

/-- The operation has come to its end. -/
def Flow.completed : Flow → Bool
  | .ok _ => true
  | .raise _ _ | .hang _ | .refuse _ _ => false

/-- R89, R97 (e): what is added to a trace, `exportReq` events apart, is a first part of a plan, and the whole plan where the
operation completes. -/
def Flow.Follows (plan old : List Event) (m : Flow) : Prop :=
  ∃ l, m.state.trace = old ++ l ∧ writesOf l <+: plan ∧ (m.completed = true → writesOf l = plan)

/-- An operation follows a plan from every state. -/
def Follows (plan : List Event) (op : State → Flow) : Prop := ∀ s, (op s).Follows plan s.trace

theorem follows_andThen {l m : List Event} {op k : State → Flow} (h : Follows l op) (hk : Follows m k) :
    Follows (l ++ m) fun s => (op s).andThen k := by
  intro s
  obtain ⟨a, htrace, hpre, hall⟩ := h s
  dsimp only
  cases ho : op s <;> rw [ho] at htrace hall
  case ok t =>
    obtain ⟨b, htrace', hpre', hall'⟩ := hk t
    have ha : writesOf a = l := hall rfl
    refine ⟨a ++ b, ?_, ?_, fun hc => ?_⟩
    · rw [andThen_ok, htrace', show t.trace = s.trace ++ a from htrace, List.append_assoc]
    · rw [writesOf_append, ha]
      exact (List.prefix_append_right_inj l).mpr hpre'
    · rw [writesOf_append, ha, hall' hc]
  case raise | hang | refuse => exact ⟨a, htrace, hpre.trans (List.prefix_append l m), nofun⟩

/-- An operation that is cut short before its first access follows every plan. -/
theorem follows_cut {plan : List Event} {m : Flow} (hm : m.completed = false) : m.Follows plan m.state.trace :=
  ⟨[], (List.append_nil _).symm, List.nil_prefix, fun hc => absurd hc (by simp [hm])⟩

/-- An operation that makes no write follows the empty plan. -/
theorem follows_nil {old l : List Event} {m : Flow} (htrace : m.state.trace = old ++ l) (hl : writesOf l = []) :
    m.Follows [] old :=
  ⟨l, htrace, hl ▸ List.prefix_rfl, fun _ => hl⟩

theorem follows_admitted {plan : List Event} {o : Opcode} {checks : State → Option RefusalReason} {body : State → Flow}
    (h : Follows plan body) : Follows plan (admitted o checks body) := by
  intro s
  rcases admitted_cases o checks body s with ⟨r, -, e⟩ | ⟨r, -, -, e⟩ | ⟨-, -, -, e⟩ <;> rw [e]
  · exact follows_cut (m := .refuse r s) rfl
  · exact follows_cut (m := .refuse r s) rfl
  · exact h s

theorem follows_exportLine (i : Line) : Follows [] fun s => exportLoop i s.cfg.exportMaxAttempts s := by
  intro s
  obtain ⟨m, -, p, h⟩ := exportLoop_cases i s.cfg.exportMaxAttempts s
  refine follows_nil (l := List.replicate m (.exportReq i)) ?_ (writesOf_requests i m)
  rcases h with e | ⟨info, e⟩ | e <;> simp only [e] <;> rfl

/-- One write access follows the plan that is its event, whatever the answer. -/
theorem follows_single {old : List Event} {e : Event} {m : Flow} (he : e.isExport = false) (h : m.state.trace = old ++ [e]) :
    m.Follows [e] old := by
  have hw : writesOf [e] = [e] := by simp [writesOf, he]
  exact ⟨[e], h, by rw [hw], fun _ => hw⟩

theorem follows_writeDirection (i : Line) : Follows [.setDir i] (writeDirection i) := fun s =>
  follows_single rfl (by rcases writeDirection_cases i s with ⟨-, e⟩ | ⟨err, -, e⟩ | ⟨-, e⟩ <;> rw [e] <;> rfl)

theorem follows_driveLevel (i : Line) (b : Bool) : Follows [.write i b] (driveLevel i b) := fun s =>
  follows_single rfl (by rcases driveLevel_cases i b s with ⟨-, e⟩ | ⟨err, -, e⟩ | ⟨-, e⟩ <;> rw [e] <;> rfl)

theorem operationRules_follows : OperationRules Follows where
  done := fun _ => follows_nil (List.append_nil _).symm rfl
  andThen := follows_andThen
  admitted := follows_admitted
  exportLine := follows_exportLine
  writeDirection := follows_writeDirection
  driveLevel := follows_driveLevel
  boot := fun _ => follows_nil (List.append_nil _).symm rfl
  endSession := fun _ => follows_nil (List.append_nil _).symm rfl
  freqMax := fun _ s => follows_cut (m := .raise .freqMax s) rfl

/-- R17, R97, R99: an operation that did not complete shows it in the cause, the mark of a hang or the mark of a refusal. -/
theorem completed_of_finish {m : Flow} (hc : m.finish.cause = .none) (hk : m.finish.stuck = false)
    (hr : m.finish.refused = false) : m.completed = true := by
  cases m with
  | ok => rfl
  | raise x => cases x <;> exact nomatch hc
  | hang => exact nomatch hk
  | refuse => exact nomatch hr

/-- R52, R89: what every command, however it ends, adds to the trace. -/
theorem follows_operation (i : Instr) : Follows (plannedEvents i) (operation i) := operationRules_follows.operation i

/-- Settles O44: the operation of every command follows its plan. -/
theorem writesFollowThePlan : Obligations.WritesFollowThePlan := by
  intro i s t _ _ _ _ h
  rw [exec_eq_finish] at h
  cases h
  obtain ⟨l, htrace, hpre, hall⟩ := follows_operation i s
  exact ⟨l, (finish_trace _).trans htrace, hpre, fun hc hk hr => hall (completed_of_finish hc hk hr)⟩

end Sys2Proof.Machine
end

section
/-! PROOFS. The four bytes of a tuning word (R45), and the 40 bits of a control word in the order a frame sends them (R43, R44,
R58). -/

namespace Sys2Proof.Machine

/-! ## The bytes of a tuning word -/

/-- R45: the joined word is its bytes side by side, the first the least significant. -/
theorem wordOfBytes_eq_append (b0 b1 b2 b3 : Byte) : wordOfBytes b0 b1 b2 b3 = b3 ++ b2 ++ b1 ++ b0 := by
  apply BitVec.eq_of_getLsbD_eq
  intro k hk
  simp only [wordOfBytes, BitVec.truncate_eq_setWidth, BitVec.getLsbD_or, BitVec.getLsbD_shiftLeft, BitVec.getLsbD_setWidth,
    BitVec.getLsbD_append]
  grind

theorem toNat_append_eq_add {m n : Nat} (x : BitVec m) (y : BitVec n) : (x ++ y).toNat = x.toNat * 2 ^ n + y.toNat := by
  rw [BitVec.toNat_append, ← Nat.shiftLeft_add_eq_or_of_lt y.isLt, Nat.shiftLeft_eq]

theorem wordOfBytes_toNat (b0 b1 b2 b3 : Byte) :
    (wordOfBytes b0 b1 b2 b3).toNat = b0.toNat + b1.toNat * 2 ^ 8 + b2.toNat * 2 ^ 16 + b3.toNat * 2 ^ 24 := by
  rw [wordOfBytes_eq_append]
  simp only [toNat_append_eq_add]
  omega

theorem wordOfBytes_tuningBytes (tw : TuningWord) :
    wordOfBytes (tuningByte tw 0) (tuningByte tw 1) (tuningByte tw 2) (tuningByte tw 3) = tw := by
  rw [wordOfBytes_eq_append]
  simp only [tuningByte, BitVec.extractLsb'_append_extractLsb'_eq_extractLsb']
  exact BitVec.extractLsb'_eq_self

/-- R45: a joined word determines its bytes, the digits of its value in base 256. -/
theorem wordOfBytes_inj {b0 b1 b2 b3 c0 c1 c2 c3 : Byte} (h : wordOfBytes b0 b1 b2 b3 = wordOfBytes c0 c1 c2 c3) :
    b0 = c0 ∧ b1 = c1 ∧ b2 = c2 ∧ b3 = c3 := by
  have hval := congrArg BitVec.toNat h
  rw [wordOfBytes_toNat, wordOfBytes_toNat] at hval
  simp only [BitVec.toNat_eq]
  omega

/-- Settles O11: the word of the four bytes of a word is that word, so the bytes of a joined word are those joined. -/
theorem tuningBytesRoundTrip : Obligations.TuningBytesRoundTrip :=
  ⟨wordOfBytes_tuningBytes, fun b0 b1 b2 b3 => ⟨wordOfBytes_toNat b0 b1 b2 b3, wordOfBytes_inj (wordOfBytes_tuningBytes _)⟩⟩

/-! ## The bits of a control word -/

/-- R44: the bits of a control word in the order sent, `W[0]` first. -/
def bitsOf (w : ControlWord) : List Bool := (List.range 40).map w.getLsbD

@[simp] theorem length_bitsOf (w : ControlWord) : (bitsOf w).length = 40 := by simp [bitsOf]

theorem map_some_bitsOf (w : ControlWord) : (bitsOf w).map some = wordBits w := by
  simp [wordBits, bitsOf]

/-- R58: byte `j` of a control word, `W[8j+7:8j]`. -/
def wordByte (w : ControlWord) (j : Nat) : Byte := w.extractLsb' (8 * j) 8

theorem wordByte_controlWord_low (tw : TuningWord) (cb : Byte) {j : Nat} (hj : j < 4) :
    wordByte (controlWord tw cb) j = tuningByte tw j :=
  BitVec.extractLsb'_append_eq_of_add_le (by omega)

theorem wordByte_controlWord_high (tw : TuningWord) (cb : Byte) : wordByte (controlWord tw cb) 4 = cb :=
  (BitVec.extractLsb'_append_eq_of_le (by omega)).trans BitVec.extractLsb'_eq_self

/-- R43, R58: the bytes of a frame are those of its control word, `W[7:0]` first. -/
theorem commandFrame_eq_map (tw : TuningWord) (cb : Byte) :
    commandFrame tw cb = (List.range 5).map (wordByte (controlWord tw cb)) := by
  simp [commandFrame, List.range_succ, wordByte_controlWord_low, wordByte_controlWord_high]

/-- R77: the events of one byte of a control word are those of its eight bits. -/
theorem byteEvents_wordByte (w : ControlWord) (j : Nat) :
    byteEvents (wordByte w j) = (List.range 8).flatMap fun k => bitEvents (w.getLsbD (8 * j + k)) :=
  List.flatMap_congr fun k hk => by
    rw [wordByte, BitVec.getLsbD_extractLsb', decide_eq_true (List.mem_range.mp hk), Bool.true_and]

/-- R44, R81: the events of a frame are those of the 40 bits of its control word, then the pulse of UPDATE. -/
theorem frameEvents_frameOf (f phase : Nat) (d : Bool) :
    frameEvents (frameOf f phase d) = (bitsOf (wordOf f phase d)).flatMap bitEvents ++ pulseEvents .update := by
  rw [frameEvents, frameOf, commandFrame_eq_map, List.flatMap_map, funext (byteEvents_wordByte _), bitsOf, List.flatMap_map]
  rfl

/-! ## The events of a frame, one by one -/

theorem length_flatMap_bitEvents (bits : List Bool) : (bits.flatMap bitEvents).length = 3 * bits.length := by
  induction bits with
  | nil => rfl
  | cons b bits ih =>
    rw [List.flatMap_cons, List.length_append, ih, List.length_cons]
    show 3 + _ = _
    omega

/-- R115: bit `n` of some bits makes the events from number `3n` on. -/
theorem getElem?_flatMap_bitEvents {bits : List Bool} {n k : Nat} {b : Bool} (hb : bits[n]? = some b) (hk : k < 3) :
    (bits.flatMap bitEvents)[3 * n + k]? = (bitEvents b)[k]? := by
  induction bits generalizing n with
  | nil => cases hb
  | cons c bits ih =>
    rw [List.flatMap_cons]
    cases n with
    | zero =>
      cases hb
      rw [Nat.mul_zero, Nat.zero_add, List.getElem?_append_left hk]
    | succ n =>
      have hlen : (bitEvents c).length = 3 := rfl
      rw [List.getElem?_append_right (by omega), hlen, show 3 * (n + 1) + k - 3 = 3 * n + k by omega]
      exact ih hb

/-- R81: with every line an output and good writes, LOAD_FREQUENCY makes the writes of its frame. -/
theorem loadFrequency_ok {s : State} {f p : Nat} {d : Bool} (hc : configValid s.cfg = true) (hs : s.sess = .booted)
    (ho : s.AllOutputs) (hf : f ≤ 40000000) (hp : p ≤ 31) (hw : s.NextWritesOk 122) :
    loadFrequency f p d s = .ok (s.wroteAll (frameWrites (frameOf f p d))) := by
  have hcheck : loadCheck f p s = none := (if_pos hf).trans (if_pos hp)
  rw [loadFrequency, admitted_run hc (by rw [hs]; rfl) hcheck, sendFrame_eq_driveAll hc (by simp [hs]) ho]
  exact driveAll_ok (by rwa [frameWrites_length])

theorem wroteAll_frame_trace (s : State) (frame : List Byte) :
    (s.wroteAll (frameWrites frame)).trace = s.trace ++ frameEvents frame :=
  congrArg (s.trace ++ ·) (frameEvents_eq frame).symm

/-- Settles O27: the new events are those of the 40 bits of the control word, three a bit, then the pulse of UPDATE. -/
theorem frameEventOrder : Obligations.FrameEventOrder := by
  intro s f p d hc hs ho hf hp hw
  have hlen := length_flatMap_bitEvents (bitsOf (wordOf f p d))
  rw [length_bitsOf] at hlen
  refine ⟨_, frameEvents (frameOf f p d), by rw [exec_eq_finish, operation, loadFrequency_ok hc hs ho hf hp hw, finish_ok],
    wroteAll_frame_trace s _, ?_⟩
  rw [frameEvents_frameOf]
  refine ⟨by rw [List.length_append, hlen]; rfl, fun n hn => ?_, ?_, ?_⟩
  · have hbit : (bitsOf (wordOf f p d))[n]? = some ((wordOf f p d).getLsbD n) := by simp [bitsOf, hn]
    have hev : ∀ k < 3, ((bitsOf (wordOf f p d)).flatMap bitEvents ++ pulseEvents .update)[3 * n + k]? =
        (bitEvents ((wordOf f p d).getLsbD n))[k]? := fun k hk => by
      rw [List.getElem?_append_left (by omega), getElem?_flatMap_bitEvents hbit hk]
    exact ⟨hev 0 (by omega), hev 1 (by omega), hev 2 (by omega)⟩
  · rw [List.getElem?_append_right (by omega), hlen]; rfl
  · rw [List.getElem?_append_right (by omega), hlen]; rfl

end Sys2Proof.Machine
end

section
/-! PROOFS. What the receiver makes of a frame, whole or cut short (R55, R116, R118). -/

namespace Sys2Proof.Machine

/-- R55: with CLK low and DATA known, the events of some bits add those bits to the open segment, and leave CLK low and DATA
known. -/
theorem seeAll_flatMap_bitEvents {r : Receiver} {l : Bool} (bits : List Bool) (hk : r.lvl.clk = some false)
    (hd : r.lvl.data = some l) :
    ∃ l', r.seeAll (bits.flatMap bitEvents) =
      { lvl := { r.lvl with data := some l', clk := some false }
        segs := r.segs
        cur := { r.cur with bits := r.cur.bits ++ bits.map some } } := by
  induction bits generalizing r l with
  | nil => exact ⟨l, by rw [← hk, ← hd, List.map_nil, List.append_nil]; rfl⟩
  | cons b bits ih =>
    rw [List.flatMap_cons, seeAll_append, seeAll_bitEvents b hk hd, List.map_cons, List.append_cons _ _ (bits.map some)]
    refine ih (l := b) ?_ ?_ <;> rfl

/-- R55: a pulse of UPDATE from low completes the open segment. -/
theorem seeAll_pulse_update {r : Receiver} (hu : r.lvl.update = some false) :
    r.seeAll (pulseEvents .update) =
      { lvl := { r.lvl with update := some false }, segs := r.segs ++ [r.cur], cur := .empty } := by
  simp [pulseEvents, Receiver.see, Receiver.setLvl, Receiver.raised, Receiver.risingEdge, linesGet, linesSet, hu]

/-- R44, R55: with CLK and UPDATE low and DATA known, a frame adds the bits of its control word to the open segment and
completes it. -/
theorem seeAll_frameEvents {r : Receiver} {l : Bool} (f phase : Nat) (d : Bool) (hk : r.lvl.clk = some false)
    (hu : r.lvl.update = some false) (hd : r.lvl.data = some l) :
    (r.seeAll (frameEvents (frameOf f phase d))).segs =
        r.segs ++ [{ r.cur with bits := r.cur.bits ++ wordBits (wordOf f phase d) }] ∧
      (r.seeAll (frameEvents (frameOf f phase d))).cur = .empty := by
  obtain ⟨l', hbits⟩ := seeAll_flatMap_bitEvents (bitsOf (wordOf f phase d)) hk hd
  rw [frameEvents_frameOf, seeAll_append, hbits, seeAll_pulse_update, map_some_bitsOf]
  · exact ⟨rfl, rfl⟩
  · exact hu

/-- R55: where no access has failed or hung, the receiver view is that of the whole trace. -/
theorem receiverView_eq {s : State} (hc : s.cause = .none) (hk : s.stuck = false) : receiverView s = receiverOf s.trace := by
  simp [receiverView, hc, hk]

/-- Settles O46: the receiver's levels are the block's (R21), so the frame's 122 events find CLK and UPDATE low and DATA
known. -/
theorem receiverTakesTheControlWord : Obligations.ReceiverTakesTheControlWord := by
  intro s f p d hcoh hc hs hk hclk hupd hdata hf hp hw
  have hlive := live_of_coherent hcoh (by simp [hs]) hk
  obtain ⟨l, hl⟩ := Option.ne_none_iff_exists'.mp hdata
  refine ⟨_, by rw [exec_eq_finish, operation, loadFrequency_ok hc hs (hlive.booted hs) hf hp hw, finish_ok], ?_⟩
  rw [receiverView_eq hlive.status.cause hk, receiverView_eq (s := s.wroteAll _) hlive.status.cause hk, wroteAll_frame_trace,
    receiverOf_append]
  exact seeAll_frameEvents f p d ((hlive.levels .clk).trans hclk) ((hlive.levels .update).trans hupd)
    ((hlive.levels .data).trans hl)

/-! ## Sessions cut short -/

/-- R55: the receiver skips `exportReq` events. -/
theorem seeAll_writesOf (r : Receiver) (l : List Event) : r.seeAll (writesOf l) = r.seeAll l := by
  induction l generalizing r with
  | nil => rfl
  | cons e l ih => cases e <;> exact ih _

/-- R55: a trace whose writes are a first part of a plan completes a first part of the plan's segments. -/
theorem segs_prefix_of_writesOf_prefix {l plan : List Event} (h : writesOf l <+: plan) :
    (receiverOf l).segs <+: (receiverOf plan).segs := by
  obtain ⟨rest, rfl⟩ := h
  rw [receiverOf_append, receiverOf, receiverOf, seeAll_writesOf]
  exact segs_seeAll_prefix _ rest

/-- R55: leaving out the last event completes no other segment. -/
theorem segs_receiverView_prefix (s : State) : (receiverView s).segs <+: (receiverOf s.trace).segs := by
  unfold receiverView
  split
  · obtain ⟨last, hlast⟩ := List.dropLast_prefix s.trace
    have hsegs := segs_seeAll_prefix (receiverOf s.trace.dropLast) last
    rwa [← receiverOf_append, hlast] at hsegs
  · exact List.prefix_rfl

/-- R83, R113: the receiver after a bootstrap from launch. -/
theorem receiverOf_bootstrapEvents :
    receiverOf bootstrapEvents = { lvl := linesAll (some false), segs := [bootstrapSegment], cur := .empty } := rfl

/-- R86, R87: the segments of a whole session are the bootstrap's and the frame's. -/
theorem segs_receiverOf_session (f phase : Nat) (d : Bool) :
    (receiverOf (bootstrapEvents ++ frameEvents (frameOf f phase d))).segs =
      [bootstrapSegment, frameSegment (wordOf f phase d)] := by
  rw [receiverOf_append, receiverOf_bootstrapEvents, (seeAll_frameEvents f phase d rfl rfl rfl).1]
  rfl

/-- R55, R89: a command from launch lets the receiver complete a first part of its plan's segments. -/
theorem segs_exec_prefix {s t : State} {i : Instr} (hs : s.CleanLaunch) (h : exec i s = .next t) :
    (receiverView t).segs <+: (receiverOf (plannedEvents i)).segs ∧
      (receiverOf t.trace).segs <+: (receiverOf (plannedEvents i)).segs := by
  rw [exec_eq_finish] at h
  cases h
  obtain ⟨l, htrace, hpre, -⟩ := follows_operation i s
  have hl : (operation i s).finish.trace = l := by
    rw [finish_trace, htrace, hs]
    rfl
  have hsegs : (receiverOf (operation i s).finish.trace).segs <+: (receiverOf (plannedEvents i)).segs :=
    hl ▸ segs_prefix_of_writesOf_prefix hpre
  exact ⟨(segs_receiverView_prefix _).trans hsegs, hsegs⟩

/-- Settles O48: the plans of SET_FREQ and SHUTDOWN complete the bootstrap's segment and the frame's, and a command makes a
first part of its plan. -/
theorem noWrongWordIsLatched : Obligations.NoWrongWordIsLatched := by
  intro s hs
  have hshut : wordOf 0 0 true = 0x0400000000 := by decide
  refine ⟨fun f p t h => ?_, fun t h => ?_⟩
  · rw [← segs_receiverOf_session]
    exact segs_exec_prefix hs h
  · rw [← hshut, ← segs_receiverOf_session]
    exact segs_exec_prefix hs h

end Sys2Proof.Machine
end

section
/-! PROOFS. The command word (R62 to R66): the decoder answers by the one row a word matches, the encoder is its inverse, and the
step refuses a word that matches no row. -/

namespace Sys2Proof

/-! ## The PIN field -/

/-- R63: each line's PIN value names the line. -/
@[simp] theorem ofPin_toPin (i : Line) : Line.ofPin i.toPin = i := by cases i <;> rfl

/-- R63: each PIN value is that of the line it names. -/
@[simp] theorem toPin_ofPin (p : BitVec 2) : (Line.ofPin p).toPin = p := by
  revert p
  decide

theorem toPin_toNat (i : Line) : i.toPin.toNat = i.index := by cases i <;> rfl

/-- Settles O5: each of the four values and of the four lines is evaluated. -/
theorem pinFieldNamesTheLine : Obligations.PinFieldNamesTheLine :=
  ⟨rfl, rfl, rfl, rfl, fun i => ⟨ofPin_toPin i, toPin_toNat i⟩⟩

/-! ## One row at most -/

theorem mem_opcodeTable (op : Opcode) : op ∈ opcodeTable := by cases op <;> decide

/-- R64: no two rows have the same OPC. -/
theorem code_injective : Function.Injective Opcode.code := fun op op' h =>
  List.inj_on_of_nodup_map (f := Opcode.code) (l := opcodeTable) (by decide) (mem_opcodeTable op) (mem_opcodeTable op') h

/-- R65: a word matches one row at most, since a row asks for its own OPC. -/
theorem matchesWord_unique {op op' : Opcode} {w : CommandWord} (h : op.matchesWord w = true)
    (h' : op'.matchesWord w = true) : op = op' :=
  code_injective (((matchesWord_iff op w).mp h).opc.symm.trans ((matchesWord_iff op' w).mp h').opc)

/-! ## What the decoder answers -/

/-- R65: a word that matches a row decodes to the row's command. -/
theorem decode_of_matchesWord {op : Opcode} {w : CommandWord} (h : op.matchesWord w = true) :
    decode w = .ok (decodeOperands op w) := by
  unfold decode
  cases hf : opcodeTable.find? fun op => op.matchesWord w with
  | none => exact absurd h (List.find?_eq_none.mp hf op (mem_opcodeTable op))
  | some op' =>
    have hm : op'.matchesWord w = true := by simpa using List.find?_some hf
    rw [matchesWord_unique hm h]

/-- R66: a word that matches no row does not decode. -/
theorem decode_of_no_match {w : CommandWord} (h : ∀ op : Opcode, op.matchesWord w = false) :
    decode w = .error (illegalKind w) := by
  have hf : opcodeTable.find? (fun op => op.matchesWord w) = none := by simp [h]
  rw [decode, hf]

/-- R65: what a word decodes to is the command of a row it matches. -/
theorem decode_eq_ok {w : CommandWord} {i : Instr} (h : decode w = .ok i) :
    ∃ op : Opcode, op.matchesWord w = true ∧ i = decodeOperands op w := by
  by_cases hm : ∃ op : Opcode, op.matchesWord w = true
  · obtain ⟨op, hop⟩ := hm
    rw [decode_of_matchesWord hop] at h
    exact ⟨op, hop, (Except.ok.inj h).symm⟩
  · rw [decode_of_no_match fun op => Bool.eq_false_iff.mpr fun hop => hm ⟨op, hop⟩] at h
    cases h

/-! ## Decoder and encoder are inverse -/

/-- R64: the word of a command matches the command's own row. -/
theorem matchesWord_encode (i : Instr) : i.opcode.matchesWord (encode i) = true := by
  cases i with
  | ensureExported l => exact Laws.RowOfEncoding.ensureExported l
  | setDirection l => exact Laws.RowOfEncoding.setDirection l
  | writeLevel l b => exact Laws.RowOfEncoding.writeLevel l b
  | pulse l => exact Laws.RowOfEncoding.pulse l
  | sendByte v => exact Laws.RowOfEncoding.sendByte v
  | loadFrequency f p d => exact Laws.RowOfEncoding.loadFrequency f p d
  | initializeLines => exact Laws.RowOfEncoding.initializeLines
  | setFreq f p => exact Laws.RowOfEncoding.setFreq f p
  | shutdown => exact Laws.RowOfEncoding.shutdown

/-- A flag of one bit is read back as it was put. -/
@[simp] theorem ofBool_beq_one (b : Bool) : (BitVec.ofBool b == 1#1) = b := by cases b <;> rfl

/-- A field of one bit is put back as it was read. -/
@[simp] theorem ofBool_of_beq_one (x : BitVec 1) : BitVec.ofBool (x == 1#1) = x := by
  revert x
  decide

theorem wellFormed_loadFrequency (f p : Nat) (d : Bool) :
    (Instr.loadFrequency f p d).wellFormed = true ↔ f < 2 ^ 32 ∧ p < 2 ^ 8 := by
  simp [Instr.wellFormed, fitsFreq, fitsPhase]

theorem wellFormed_setFreq (f p : Nat) : (Instr.setFreq f p).wellFormed = true ↔ f < 2 ^ 32 ∧ p < 2 ^ 8 := by
  simp [Instr.wellFormed, fitsFreq, fitsPhase]

/-- R62, R65: operands that fit their fields are read back from the command's word. -/
theorem decodeOperands_encode {i : Instr} (h : i.wellFormed = true) : decodeOperands i.opcode (encode i) = i := by
  cases i with
  | loadFrequency f p d =>
    have hfits := (wellFormed_loadFrequency f p d).mp h
    simpa [decodeOperands, encode, packWord_eq, Instr.opcode] using hfits
  | setFreq f p =>
    have hfits := (wellFormed_setFreq f p).mp h
    simpa [decodeOperands, encode, packWord_eq, Instr.opcode] using hfits
  | ensureExported | setDirection | writeLevel | pulse | sendByte | initializeLines | shutdown =>
    simp [decodeOperands, encode, packWord_eq, Instr.opcode]

/-- Settles O2: the word of a command matches the command's row, whose operands are those put into the fields. -/
theorem decodeAfterEncode : Obligations.DecodeAfterEncode := fun i h => by
  rw [decode_of_matchesWord (matchesWord_encode i), decodeOperands_encode h]

/-- R62, R64: a word that is as a row asks is the word of the command read from it: every field is an operand or fixed. -/
theorem encode_decodeOperands {op : Opcode} {w : CommandWord} (h : RowFields op w) : encode (decodeOperands op w) = w := by
  obtain ⟨hopc, hbyte, hpin, hlvl, hout, hpd, hrsv, hphase, hfreq⟩ := h
  conv_rhs => rw [← join_fields w]
  cases op <;>
    simp [encode, decodeOperands, packWord_eq, Instr.opcode, hopc, hbyte, hpin, hlvl, hout, hpd, hrsv, hphase, hfreq]

/-- R62: operands read from fields fit the fields. -/
theorem wellFormed_decodeOperands (op : Opcode) (w : CommandWord) : (decodeOperands op w).wellFormed = true := by
  cases op with
  | loadFrequency => exact (wellFormed_loadFrequency _ _ _).mpr ⟨(fieldFreq w).isLt, (fieldPhase w).isLt⟩
  | setFreq => exact (wellFormed_setFreq _ _).mpr ⟨(fieldFreq w).isLt, (fieldPhase w).isLt⟩
  | ensureExported | setDirection | writeLevel | pulse | sendByte | initializeLines | shutdown => rfl

/-- Settles O3: a word that decodes matches the row of its command, and so has the fields its command's word has. -/
theorem encodeAfterDecode : Obligations.EncodeAfterDecode := by
  intro w i h
  obtain ⟨op, hop, rfl⟩ := decode_eq_ok h
  exact ⟨encode_decodeOperands ((matchesWord_iff op w).mp hop), wellFormed_decodeOperands op w⟩

/-! ## The rows written out -/

/-- The field of one bit is that bit of the word. -/
theorem extractLsb'_one_beq (w : CommandWord) (k : Nat) : (w.extractLsb' k 1 == 1) = w.getLsbD k := by
  rw [Bool.eq_iff_iff, beq_iff_eq, BitVec.eq_of_getLsbD_eq_iff]
  simp

theorem fieldFreq_toNat (w : CommandWord) : (fieldFreq w).toNat = w.toNat % 2 ^ 32 := by
  simp [fieldFreq]

theorem fieldPhase_toNat (w : CommandWord) : (fieldPhase w).toNat = w.toNat / 2 ^ 32 % 2 ^ 8 := by
  simp [fieldPhase, Nat.shiftRight_eq_div_pow]

/-- R65: a row's mask and match, as the decoder applies them. -/
theorem decode_of_masked {op : Opcode} {w : CommandWord} (h : w &&& op.maskBits = op.matchBits) :
    decode w = .ok (decodeOperands op w) :=
  decode_of_matchesWord (beq_iff_eq.mpr h)

/-- Settles O4: each row's masked equation is its match, and its operands are the fields' values. -/
theorem decodeFollowsTheTable : Obligations.DecodeFollowsTheTable := by
  intro w
  refine ⟨decode_of_masked (op := .ensureExported), decode_of_masked (op := .setDirection), fun h => ?_,
    decode_of_masked (op := .pulse), decode_of_masked (op := .sendByte), fun h => ?_,
    decode_of_masked (op := .initializeLines), fun h => ?_, decode_of_masked (op := .shutdown),
    fun op op' => matchesWord_unique⟩
  · rw [decode_of_masked (op := .writeLevel) h, ← extractLsb'_one_beq]
    rfl
  · rw [decode_of_masked (op := .loadFrequency) h, ← extractLsb'_one_beq, ← fieldFreq_toNat, ← fieldPhase_toNat]
    rfl
  · rw [decode_of_masked (op := .setFreq) h, ← fieldFreq_toNat, ← fieldPhase_toNat]
    rfl

/-! ## What an illegal word lacks -/

/-- R64: a word that lacks what a row asks does not match it. -/
theorem matchesWord_eq_false {op : Opcode} {w : CommandWord} (h : ¬ RowFields op w) : op.matchesWord w = false :=
  Bool.eq_false_iff.mpr fun hm => h ((matchesWord_iff op w).mp hm)

theorem fieldLvl_eq_one_iff (w : CommandWord) : fieldLvl w = 1 ↔ w.getLsbD 45 = true := by
  rw [← extractLsb'_one_beq, beq_iff_eq, fieldLvl]

theorem fieldPd_eq_one_iff (w : CommandWord) : fieldPd w = 1 ↔ w.getLsbD 44 = true := by
  rw [← extractLsb'_one_beq, beq_iff_eq, fieldPd]

/-- R62: the low 40 bits are PHASE over FREQ. -/
theorem extractLsb'_low_eq_zero {w : CommandWord} (hp : fieldPhase w = 0) (hf : fieldFreq w = 0) : w.extractLsb' 0 40 = 0 := by
  have h : w.extractLsb' 0 40 = fieldPhase w ++ fieldFreq w := by
    rw [fieldPhase, fieldFreq,
      BitVec.extractLsb'_append_extractLsb'_eq_extractLsb' (start₁ := 0) (start₂ := 32) (len₁ := 32) rfl]
  rw [h, hp, hf]
  rfl

end Sys2Proof
end

section
/-! PROOFS. What a step makes of the host's next input (R66, R72): it runs the command, or writes the refusal mark only. -/

namespace Sys2Proof.Machine

/-- R84: an input that stands for a command is taken and run. -/
theorem step_of_readInput_ok {s : State} {input : HostInput} {rest : List HostInput} {i : Instr} (hk : s.stuck = false)
    (hi : s.inputs = input :: rest) (hr : readInput input = .ok i) : step s = exec i (s.withInputs rest) := by
  simp [step, hk, hi, hr]

/-- R66, R72: an input that stands for no command is taken and refused. -/
theorem step_of_readInput_error {s : State} {input : HostInput} {rest : List HostInput} {r : RefusalReason}
    (hk : s.stuck = false) (hi : s.inputs = input :: rest) (hr : readInput input = .error r) :
    step s = .next ((s.withInputs rest).refuse r) := by
  simp [step, hk, hi, hr]

/-! ## Illegal words -/

/-- R66: a word that does not decode is refused as illegal. -/
theorem readInput_illegalWord {w : CommandWord} {e : DecodeError} (h : decode w = .error e) :
    readInput (.word w) = .error .illegalWord := by
  simp [readInput, h]

/-- Settles O6: each illegal field contradicts what every row, or every row but those that use the field, asks of it; a word
without a row is an error of the decoder, which a step refuses. -/
theorem illegalWordsAreRefused : Obligations.IllegalWordsAreRefused := by
  intro w
  refine ⟨fun op h => ?_, fun h op => ?_, fun h op hb => ?_, fun h op h1 h2 h3 h4 => ?_, fun h op h1 h2 => ?_,
    fun h op h1 => ?_, fun h op h1 h2 => ?_, fun hopc hlvl op => ?_, fun h => ?_⟩
  · exact matchesWord_eq_false fun row => h row.opc
  · exact matchesWord_eq_false fun row => h row.rsv
  · exact matchesWord_eq_false fun row => h (row.byte hb)
  · exact matchesWord_eq_false fun row => h (row.pin h1 h2 h3 h4)
  · refine matchesWord_eq_false fun row => ?_
    cases (row.lvl h1 h2).symm.trans ((fieldLvl_eq_one_iff w).mpr h)
  · refine matchesWord_eq_false fun row => ?_
    cases (row.pd h1).symm.trans ((fieldPd_eq_one_iff w).mpr h)
  · exact matchesWord_eq_false fun row => h (extractLsb'_low_eq_zero (row.phase h1 h2) (row.freq h1 h2))
  · refine matchesWord_eq_false fun row => ?_
    have hop : op = .setDirection := code_injective (row.opc.symm.trans hopc)
    have hset := (fieldLvl_eq_one_iff w).mp (row.out hop)
    rw [hlvl] at hset
    cases hset
  · have herr := decode_of_no_match h
    exact ⟨⟨_, herr⟩, fun s rest hk hi => step_of_readInput_error hk hi (readInput_illegalWord herr)⟩

/-! ## Command lines -/

/-- R72: a command line that asks for a command is read as it. -/
theorem readInput_line_of_some {c : CommandLine} {i : Instr} (h : commandOfLine c = some i) : readInput (.line c) = .ok i := by
  simp [readInput, h]

/-- R72: a command line that asks for none is refused. -/
theorem readInput_line_of_none {c : CommandLine} (h : commandOfLine c = none) :
    readInput (.line c) = .error .helpOrUnparsed := by
  simp [readInput, h]

/-- R72: a frequency line whose numbers fit their fields asks for SET_FREQ. -/
theorem commandOfLine_frequency_fits {f : Nat} {p : Option Nat} (hf : f < 2 ^ 32) (hp : p.getD defaultPhase < 2 ^ 8) :
    commandOfLine (.frequency f p) = some (.setFreq f (p.getD defaultPhase)) :=
  if_pos ((wellFormed_setFreq _ _).mpr ⟨hf, hp⟩)

/-- R72: a frequency line with a number too wide for its field asks for no command. -/
theorem commandOfLine_frequency_wide {f : Nat} {p : Option Nat} (h : 2 ^ 32 ≤ f ∨ 2 ^ 8 ≤ p.getD defaultPhase) :
    commandOfLine (.frequency f p) = none := by
  have hwide : ¬ (Instr.setFreq f (p.getD defaultPhase)).wellFormed = true := by
    rw [wellFormed_setFreq]
    omega
  exact if_neg hwide

/-- Settles O38: each form of command line asks for its command, which the step runs, or for none, and the step refuses it. -/
theorem commandLinesAreCommands : Obligations.CommandLinesAreCommands := by
  intro s rest hk
  refine ⟨fun c hc hi => ?_, fun hi => ?_, fun f hf hi => ?_, fun f p hf hp hi => ?_, fun f p hp hi => ?_,
    fun f p hf hi => ?_⟩
  · have hnone : commandOfLine c = none := by rcases hc with rfl | rfl <;> rfl
    exact step_of_readInput_error hk hi (readInput_line_of_none hnone)
  · exact step_of_readInput_ok hk hi (readInput_line_of_some rfl)
  · exact step_of_readInput_ok hk hi (readInput_line_of_some (commandOfLine_frequency_fits hf (by decide)))
  · exact step_of_readInput_ok hk hi (readInput_line_of_some (commandOfLine_frequency_fits hf hp))
  · exact step_of_readInput_error hk hi (readInput_line_of_none (commandOfLine_frequency_wide (.inr hp)))
  · exact step_of_readInput_error hk hi (readInput_line_of_none (commandOfLine_frequency_wide (.inl hf)))

end Sys2Proof.Machine
end

section
/-! PROOFS. The control byte (R59) and the control word a frame spells (R43, R58), field by field, and the value ranges of R67. -/

namespace Sys2Proof.Machine

/-! ## The control byte -/

/-- R59: the control byte is the phase, the power-down flag and two zeros, side by side. -/
theorem controlByte_eq_append (p : Nat) (d : Bool) : controlByte p d = BitVec.ofNat 5 p ++ BitVec.ofBool d ++ 0#2 := by
  apply BitVec.eq_of_getLsbD_eq
  intro k hk
  simp only [controlByte, BitVec.truncate_eq_setWidth, BitVec.getLsbD_or, BitVec.getLsbD_shiftLeft, BitVec.getLsbD_setWidth,
    BitVec.getLsbD_append, BitVec.getLsbD_ofNat, BitVec.getLsbD_ofBool]
  grind

section

variable (p : Nat) (d : Bool)

theorem controlByte_phase : (controlByte p d).extractLsb' 3 5 = BitVec.ofNat 5 p := by
  rw [controlByte_eq_append, BitVec.extractLsb'_append_eq_of_le (by omega)]
  exact BitVec.extractLsb'_append_eq_left

theorem controlByte_powerDown : (controlByte p d).getLsbD 2 = d := by
  rw [controlByte_eq_append, BitVec.getLsbD_append, BitVec.getLsbD_append]
  cases d <;> rfl

theorem controlByte_low : (controlByte p d).extractLsb' 0 2 = 0 := by
  rw [controlByte_eq_append]
  exact BitVec.extractLsb'_append_eq_right

theorem controlByte_toNat {p : Nat} (hp : p ≤ 31) : (controlByte p d).toNat = p * 8 + if d then 4 else 0 := by
  rw [controlByte_eq_append, toNat_append_eq_add, toNat_append_eq_add, BitVec.toNat_ofNat, Nat.mod_eq_of_lt (by omega)]
  cases d <;> simp <;> omega

end

/-! ## The control word -/

/-- R58: the bits of a control word from number 32 on are those of the control byte. -/
theorem controlWord_extract_high (tw : TuningWord) (cb : Byte) (k n : Nat) :
    (controlWord tw cb).extractLsb' (32 + k) n = cb.extractLsb' k n := by
  rw [controlWord, BitVec.extractLsb'_append_eq_of_le (by omega), Nat.add_sub_cancel_left]

theorem controlWord_getLsbD_high (tw : TuningWord) (cb : Byte) (k : Nat) :
    (controlWord tw cb).getLsbD (32 + k) = cb.getLsbD k := by
  rw [controlWord, BitVec.getLsbD_append, if_neg (by omega), Nat.add_sub_cancel_left]

/-- Settles O9: the byte is its three fields side by side, and stands in the word from bit 32 on. -/
theorem controlByteLayout : Obligations.ControlByteLayout := by
  intro p d tw hp
  have hphase : (BitVec.ofNat 5 p).toNat = p := Nat.mod_eq_of_lt (by omega)
  refine ⟨by rw [controlByte_phase, hphase], controlByte_powerDown p d, controlByte_low p d, controlByte_toNat d hp, ?_, ?_,
    ?_⟩
  · rw [controlWord_extract_high tw _ 3 5, controlByte_phase, hphase]
  · rw [controlWord_getLsbD_high tw _ 2, controlByte_powerDown]
  · rw [controlWord_extract_high tw _ 0 2, controlByte_low]

/-- Settles O12: the frame's bytes are those of the control word, whose fields stand side by side. -/
theorem frameIsTheControlWord : Obligations.FrameIsTheControlWord := by
  intro tw cb
  refine ⟨BitVec.extractLsb'_append_eq_right, BitVec.extractLsb'_append_eq_left, rfl, fun j hj => ?_⟩
  rw [commandFrame_eq_map, List.getElem?_map, List.getElem?_range hj]
  rfl

/-! ## Value ranges -/

/-- R96 (3): an admitted operation whose check fails is refused. -/
theorem admitted_check_refuse {op : Opcode} {checks : State → Option RefusalReason} {body : State → Flow} {s : State}
    {r : RefusalReason} (hc : configValid s.cfg = true) (ha : admits op s.sess = true) (hk : checks s = some r) :
    admitted op checks body s = .refuse r s := by
  simp [admitted, admission_none hc ha, hk]

/-- R67, R81: LOAD_FREQUENCY in a booted session is refused for the reason its check gives. -/
theorem exec_loadFrequency_refused {f p : Nat} {d : Bool} {s : State} {r : RefusalReason} (hc : configValid s.cfg = true)
    (hs : s.sess = .booted) (hk : loadCheck f p s = some r) : exec (.loadFrequency f p d) s = .next (s.refuse r) := by
  rw [exec_eq_finish, operation, loadFrequency, admitted_check_refuse hc (by rw [hs]; rfl) hk, finish_refuse]

theorem loadCheck_wide_freq {f : Nat} (hf : f > 40000000) (p : Nat) (s : State) : loadCheck f p s = some .freqRange :=
  if_neg (Nat.not_le.mpr hf)

theorem phaseCheck_wide {p : Nat} (hp : p > 31) (s : State) : phaseCheck p s = some .phaseRange :=
  if_neg (Nat.not_le.mpr hp)

/-- R67 (a): one of the two checks of LOAD_FREQUENCY refuses a phase above 31. -/
theorem loadCheck_wide_phase {p : Nat} (hp : p > 31) (f : Nat) (s : State) : ∃ r, loadCheck f p s = some r := by
  unfold loadCheck
  split
  · exact ⟨_, phaseCheck_wide hp s⟩
  · exact ⟨_, rfl⟩

/-- R86, R92: SET_FREQ with a good phase and a frequency above P_FMAX raises `E_FREQ_MAX` before any access. -/
theorem setFreq_freqMax {f p : Nat} {s : State} (hc : configValid s.cfg = true) (hs : s.sess = .uninit) (hf : f > 40000000)
    (hp : p ≤ 31) : setFreq f p s = .raise .freqMax s := by
  rw [setFreq, admitted_run hc (by rw [hs]; rfl) (if_pos hp)]
  exact if_pos hf

/-- Settles O15: in the session that admits them both commands come to their checks, which refuse a wide operand; the
frequency of SET_FREQ is tried by its body, which raises. -/
theorem valueRanges : Obligations.ValueRanges := by
  intro f p d s hc
  refine ⟨fun hp hs => ?_, fun hp hs => ?_, fun hf hs => .inl ?_, fun hf hp hs => ?_⟩
  · obtain ⟨r, hr⟩ := loadCheck_wide_phase hp f s
    exact ⟨r, exec_loadFrequency_refused hc hs hr⟩
  · rw [exec_eq_finish, operation, setFreq, admitted_check_refuse hc (by rw [hs]; rfl) (phaseCheck_wide hp s)]
    rfl
  · exact exec_loadFrequency_refused hc hs (loadCheck_wide_freq hf p s)
  · rw [exec_eq_finish, operation, setFreq_freqMax hc hs hf hp]
    rfl

end Sys2Proof.Machine
end

section
/-! PROOFS. The expansions of R71. An operation is compared with a list of commands given while the session goes on (`Expands`);
the comparison goes through sequences, since an operation that raises or hangs ends the session for the list as well. -/

namespace Sys2Proof.Machine

/-! ## Commands given one after the other -/

theorem running_iff (s : State) : s.running = true ↔ s.stuck = false ∧ s.sess ≠ .halted := by
  simp [State.running]

theorem execAll_not_running {s : State} (h : s.running = false) (l : List Instr) : execAll l s = s := by
  cases l with
  | nil => rfl
  | cons i l => simp [execAll, h]

theorem execAll_cons {s : State} (h : s.running = true) (i : Instr) (l : List Instr) :
    execAll (i :: l) s = execAll l (operation i s).finish := by
  simp [execAll, h, exec_eq_finish]

theorem execAll_append (l m : List Instr) (s : State) : execAll (l ++ m) s = execAll m (execAll l s) := by
  induction l generalizing s with
  | nil => rfl
  | cons i l ih =>
    rcases hs : s.running with _ | _
    · rw [execAll_not_running hs, execAll_not_running hs, execAll_not_running hs]
    · rw [List.cons_append, execAll_cons hs, execAll_cons hs, ih]

/-! ## Operations that are not refused -/

/-- An operation completes in a state that meets `P`, or ends the session or hangs: it is not refused. -/
def Flow.Runs (P : State → Prop) (m : Flow) : Prop :=
  match m with
  | .ok t => P t
  | .raise _ _ => True
  | .hang _ => True
  | .refuse _ _ => False

theorem Flow.Runs.mono {P Q : State → Prop} {m : Flow} (h : m.Runs P) (hpq : ∀ t, P t → Q t) : m.Runs Q := by
  cases m with
  | ok t => exact hpq t h
  | raise | hang | refuse => exact h

theorem Flow.Runs.andThen {P Q : State → Prop} {m : Flow} {k : State → Flow} (h : m.Runs P) (hk : ∀ t, P t → (k t).Runs Q) :
    (m.andThen k).Runs Q := by
  cases m with
  | ok t => exact hk t h
  | raise | hang | refuse => exact h

/-- R97, R99: an exception ends the session and a hang leaves the block stuck, so nothing is added after either. -/
theorem Flow.Runs.finish_ifRunning {P : State → Prop} {m : Flow} (h : m.Runs P) (hP : ∀ t, P t → t.running = true)
    (g : State → State) : (m.andThen fun t => .ok (g t)).finish = m.finish.ifRunning g := by
  cases m with
  | ok t => exact (if_pos (hP t h)).symm
  | raise x t => simp [State.ifRunning, State.running]
  | hang t => simp [State.ifRunning, State.running]
  | refuse => exact h.elim

/-! ## Expansions -/

/-- R71: an operation begun in `s` leaves what the commands of a list leave, and is not refused. -/
structure Flow.Expands (m : Flow) (l : List Instr) (s : State) (P : State → Prop) : Prop where
  finish : m.finish = execAll l s
  runs : m.Runs P

theorem expands_nil {P : State → Prop} {s : State} (h : P s) : (Flow.ok s).Expands [] s P := ⟨rfl, h⟩

/-- A command's operation expands to the command. -/
theorem expands_operation {P : State → Prop} {i : Instr} {s : State} (hs : s.running = true) (h : (operation i s).Runs P) :
    (operation i s).Expands [i] s P :=
  ⟨(execAll_cons hs i []).symm, h⟩

theorem Flow.Expands.andThen {P Q : State → Prop} {m : Flow} {k : State → Flow} {l l' : List Instr} {s : State}
    (h : m.Expands l s P) (hk : ∀ t, P t → (k t).Expands l' t Q) : (m.andThen k).Expands (l ++ l') s Q := by
  refine ⟨?_, h.runs.andThen fun t ht => (hk t ht).runs⟩
  have hruns := h.runs
  rw [execAll_append, ← h.finish]
  cases m with
  | ok t => exact (hk t hruns).finish
  | raise x t => exact (execAll_not_running (by simp [State.running]) l').symm
  | hang t => exact (execAll_not_running (by simp [State.running]) l').symm
  | refuse => exact hruns.elim

theorem expands_forEach {α : Type} {P : State → Prop} {op : α → State → Flow} {parts : α → List Instr}
    (h : ∀ a s, P s → (op a s).Expands (parts a) s P) (l : List α) {s : State} (hs : P s) :
    (forEach op l s).Expands (l.flatMap parts) s P := by
  induction l generalizing s with
  | nil => exact expands_nil hs
  | cons a l ih => exact (h a s hs).andThen fun t ht => ih ht

/-! ## The pin driver -/

/-- A block whose session goes on, under a valid configuration, with the lines of a list outputs. -/
structure State.ReadyOn (l : List Line) (s : State) : Prop where
  cfg : configValid s.cfg = true
  running : s.running = true
  output : ∀ j ∈ l, s.lineIsOutput j = true

theorem State.ReadyOn.notHalted {l : List Line} {s : State} (h : s.ReadyOn l) : s.sess ≠ .halted := ((running_iff s).mp h.running).2

/-- Progress that leaves the session state and the outputs leaves a ready block ready. -/
theorem State.ReadyOn.of_progress {l m : List Line} {s t : State} (h : s.ReadyOn l) (hp : Progress s t)
    (hs : t.sess = s.sess) (ho : ∀ j ∈ m, t.lineIsOutput j = true) : t.ReadyOn m :=
  ⟨hp.cfg ▸ h.cfg, by rw [State.running, hp.stuck, hs]; exact h.running, ho⟩

/-- R73: ENSURE_EXPORTED is not refused, and where it completes the line is exported and every output is one still. -/
theorem runs_ensureExported {l : List Line} {s : State} (h : s.ReadyOn l) (i : Line) :
    (ensureExported i s).Runs fun t => t.ReadyOn l ∧ (t.pin i).exported = true := by
  rw [ensureExported, admitted_run h.cfg (admits_direct h.notHalted (by simp)) rfl]
  obtain ⟨m, -, p, e | ⟨info, e⟩ | e⟩ := exportLoop_cases i s.cfg.exportMaxAttempts s
  · rw [e]
    refine ⟨h.of_progress ((progress_requested s i m p).trans' (progress_setExported _ i)) rfl fun j hj => ?_, by simp⟩
    have hout := h.output j hj
    exact lineIsOutput_setPin (s := s.requested i m p) hout fun e => ⟨rfl, e ▸ ((lineIsOutput_iff s j).mp hout).2⟩
  · rw [e]; trivial
  · rw [e]; trivial

/-- R74: the direction write of an exported line makes it an output, where it completes. -/
theorem runs_writeDirection {l : List Line} {s : State} (h : s.ReadyOn l) {i : Line} (hi : (s.pin i).exported = true) :
    (writeDirection i s).Runs (State.ReadyOn (i :: l)) := by
  rcases writeDirection_cases i s with ⟨-, e⟩ | ⟨err, -, e⟩ | ⟨-, e⟩ <;> rw [e]
  · refine h.of_progress ((progress_emit s _ (linesAll 0) 0 1 0).trans' (progress_setDir _ i .out)) rfl fun j hj => ?_
    rw [lineIsOutput_iff, State.pin_setDir]
    split
    · exact ⟨hi, rfl⟩
    · exact (lineIsOutput_iff s j).mp (h.output j ((List.mem_cons.mp hj).resolve_left ‹_›))
  · trivial
  · trivial

theorem runs_setDirection {l : List Line} {s : State} (h : s.ReadyOn l) (i : Line) :
    (setDirection i s).Runs (State.ReadyOn (i :: l)) := by
  rw [setDirection, admitted_run h.cfg (admits_direct h.notHalted (by simp)) rfl]
  exact (runs_ensureExported h i).andThen fun t ⟨ht, hi⟩ => runs_writeDirection ht hi

/-- R75: WRITE_LEVEL of an output is not refused, and leaves the outputs as they are. -/
theorem expands_writeLevel {l : List Line} {i : Line} (hi : i ∈ l) (b : Bool) {s : State} (h : s.ReadyOn l) :
    (writeLevel i b s).Expands [.writeLevel i b] s (State.ReadyOn l) := by
  refine expands_operation (i := .writeLevel i b) h.running ?_
  rw [operation, writeLevel, admitted_run h.cfg (admits_direct h.notHalted (by simp)) (lineCheck_none (h.output i hi))]
  rcases driveLevel_cases i b s with ⟨-, e⟩ | ⟨err, -, e⟩ | ⟨-, e⟩ <;> rw [e]
  · exact h.of_progress ((progress_emit s _ (linesAll 0) 0 0 1).trans' (progress_setLevel _ i _)) rfl fun j hj =>
      (wrote_lineIsOutput s (i, b) j).trans (h.output j hj)
  · trivial
  · trivial

/-- R71 (a). -/
theorem expands_pulse {l : List Line} {i : Line} (hi : i ∈ l) {s : State} (h : s.ReadyOn l) :
    (pulse i s).Expands [.writeLevel i true, .writeLevel i false] s (State.ReadyOn l) := by
  rw [pulse, admitted_run h.cfg (admits_direct h.notHalted (by simp)) (lineCheck_none (h.output i hi))]
  exact (expands_writeLevel hi true h).andThen fun t ht => expands_writeLevel hi false ht

/-! ## The serializer and the encoder -/

/-- R71 (b): the commands of the lowest `n` bits of a byte. -/
def bitCommands (n : Nat) (v : Byte) : List Instr :=
  (List.range n).flatMap fun k => [.writeLevel .data (v.getLsbD k), .pulse .clk]

/-- The lowest bit comes first, the others are those of the shifted byte. -/
theorem bitCommands_succ (n : Nat) (v : Byte) :
    bitCommands (n + 1) v = ([.writeLevel .data (v.getLsbD 0)] ++ [.pulse .clk]) ++ bitCommands n (v >>> 1) := by
  simp [bitCommands, List.range_succ_eq_map, List.flatMap_map, Nat.add_comm]

/-- PULSE as one command of an expansion. -/
theorem expands_pulse_command {l : List Line} {i : Line} (hi : i ∈ l) {s : State} (h : s.ReadyOn l) :
    (pulse i s).Expands [.pulse i] s (State.ReadyOn l) :=
  expands_operation (i := .pulse i) h.running (expands_pulse hi h).runs

theorem expands_sendBits {l : List Line} (hd : Line.data ∈ l) (hk : Line.clk ∈ l) (n : Nat) (v : Byte) {s : State}
    (h : s.ReadyOn l) : (sendBits n v s).Expands (bitCommands n v) s (State.ReadyOn l) := by
  induction n generalizing v s with
  | zero => exact expands_nil h
  | succ n ih =>
    rw [bitCommands_succ]
    have hbit := (expands_writeLevel hd (v.getLsbD 0) h).andThen fun _ ht => expands_pulse_command hk ht
    exact hbit.andThen fun t ht => ih (v >>> 1) ht

/-- R71 (b). -/
theorem expands_sendByte {l : List Line} (hd : Line.data ∈ l) (hk : Line.clk ∈ l) (v : Byte) {s : State} (h : s.ReadyOn l) :
    (sendByte v s).Expands (bitCommands 8 v) s (State.ReadyOn l) := by
  rw [sendByte, admitted_run h.cfg (admits_direct h.notHalted (by simp)) (serialCheck_none (h.output _ hd) (h.output _ hk))]
  exact expands_sendBits hd hk 8 v h

/-- SEND_BYTE as one command of an expansion. -/
theorem expands_sendByte_command {l : List Line} (hd : Line.data ∈ l) (hk : Line.clk ∈ l) (v : Byte) {s : State}
    (h : s.ReadyOn l) : (sendByte v s).Expands [.sendByte v] s (State.ReadyOn l) :=
  expands_operation (i := .sendByte v) h.running (expands_sendByte hd hk v h).runs

/-- R71 (c). -/
theorem expands_loadFrequency {s : State} (h : s.ReadyOn allLines) (hs : s.sess = .booted) {f p : Nat} (d : Bool)
    (hf : f ≤ 40000000) (hp : p ≤ 31) :
    (loadFrequency f p d s).Expands ((frameOf f p d).map Instr.sendByte ++ [.pulse .update]) s (State.ReadyOn allLines) := by
  have hcheck : loadCheck f p s = none := (if_pos hf).trans (if_pos hp)
  rw [loadFrequency, admitted_run h.cfg (by rw [hs]; rfl) hcheck, List.map_eq_flatMap]
  exact (expands_forEach (fun v _ => expands_sendByte_command (by decide) (by decide) v) _ h).andThen fun _ ht =>
    expands_pulse_command (by decide) ht

/-! ## The session -/

/-- R83: one line, which becomes an output. -/
theorem expands_prepareLine {l : List Line} {s : State} (h : s.ReadyOn l) (i : Line) :
    (prepareLine i s).Expands [.ensureExported i, .setDirection i] s (State.ReadyOn (i :: l)) :=
  (expands_operation (i := .ensureExported i) h.running (runs_ensureExported h i)).andThen fun _ ⟨ht, _⟩ =>
    expands_operation (i := .setDirection i) ht.running (runs_setDirection ht i)

theorem expands_prepareLines {l : List Line} {s : State} (h : s.ReadyOn l) (m : List Line) :
    (forEach prepareLine m s).Expands (m.flatMap fun i => [.ensureExported i, .setDirection i]) s
      (State.ReadyOn (m ++ l)) := by
  induction m generalizing l s with
  | nil => exact expands_nil h
  | cons i m ih =>
    refine (expands_prepareLine h i).andThen fun t ht => ?_
    have hrest := ih ht
    refine ⟨hrest.finish, hrest.runs.mono fun u hu => ⟨hu.cfg, hu.running, fun j hj => hu.output j ?_⟩⟩
    exact List.perm_middle.symm.subset hj

/-- R83: the accesses of the bootstrap. -/
def bootstrapAccesses (s : State) : Flow :=
  ((forEach prepareLine allLines s).andThen (forEach driveLow Config.initLowOrder)).andThen
    (forEach pulse [.reset, .clk, .update])

theorem bootstrap_eq_accesses (s : State) : bootstrap s = (bootstrapAccesses s).andThen fun t => .ok t.boot := by
  rw [bootstrapAccesses, andThen_assoc, andThen_assoc]
  rfl

/-- R71 (d): the commands of the bootstrap. -/
def bootstrapCommands : List Instr :=
  (allLines.flatMap fun i => [.ensureExported i, .setDirection i]) ++
    (Config.initLowOrder.flatMap fun i => [.writeLevel i false]) ++ [Line.reset, .clk, .update].flatMap fun i => [.pulse i]

theorem mem_allLines (i : Line) : i ∈ allLines := by cases i <;> decide

theorem expands_bootstrapAccesses {s : State} (h : s.ReadyOn []) :
    (bootstrapAccesses s).Expands bootstrapCommands s (State.ReadyOn allLines) :=
  ((expands_prepareLines h allLines).andThen fun _ h1 =>
    expands_forEach (fun i _ => expands_writeLevel (mem_allLines i) false) _ h1).andThen fun _ h2 =>
      expands_forEach (fun i _ => expands_pulse_command (mem_allLines i)) _ h2

section

variable {s : State} (h : s.ReadyOn []) (hs : s.sess = .uninit)
include h hs

theorem initializeLines_eq_accesses : initializeLines s = (bootstrapAccesses s).andThen fun t => .ok t.boot := by
  rw [initializeLines, admitted_run h.cfg (by rw [hs]; rfl) rfl, bootstrap_eq_accesses]

/-- R71 (d): INITIALIZE leaves what its commands leave, and then the session is booted. -/
theorem finish_initializeLines : (initializeLines s).finish = (execAll bootstrapCommands s).ifRunning State.boot := by
  have hexp := expands_bootstrapAccesses h
  rw [initializeLines_eq_accesses h hs, hexp.runs.finish_ifRunning (fun t ht => ht.running), hexp.finish]

/-- R113: INITIALIZE is not refused, and where it completes LOAD_FREQUENCY is admitted and will find its lines outputs. -/
theorem runs_initializeLines : (initializeLines s).Runs fun t => t.ReadyOn allLines ∧ t.sess = .booted := by
  rw [initializeLines_eq_accesses h hs]
  refine (expands_bootstrapAccesses h).runs.andThen fun t ht => ⟨⟨ht.cfg, ?_, ht.output⟩, rfl⟩
  exact (running_iff t.boot).mpr ⟨((running_iff t).mp ht.running).1, nofun⟩

/-- R71 (e), (f): bootstrap and frame, and then the session ends. -/
theorem finish_bootAndLoad {f p : Nat} (d : Bool) (hf : f ≤ 40000000) (hp : p ≤ 31) :
    (bootAndLoad f p d s).finish =
      (execAll [.initializeLines, .loadFrequency f p d] s).ifRunning State.endSession := by
  have hboot := expands_operation (i := .initializeLines) h.running (runs_initializeLines h hs)
  have hexp := hboot.andThen fun t ⟨ht, hb⟩ =>
    expands_operation (i := .loadFrequency f p d) ht.running (expands_loadFrequency ht hb d hf hp).runs
  rw [bootAndLoad, ← andThen_assoc]
  exact (hexp.runs.finish_ifRunning (fun t ht => ht.running) _).trans (congrArg (State.ifRunning · _) hexp.finish)

end

/-- R86: SET_FREQ with good operands is the bootstrap and the frame. -/
theorem setFreq_eq_bootAndLoad {s : State} {f p : Nat} (hc : configValid s.cfg = true) (hs : s.sess = .uninit)
    (hf : f ≤ 40000000) (hp : p ≤ 31) : setFreq f p s = bootAndLoad f p false s := by
  rw [setFreq, admitted_run hc (by rw [hs]; rfl) (if_pos hp)]
  exact if_neg (Nat.not_lt.mpr hf)

/-- Settles O33: each composite is not refused on its way, and so leaves what its expansion leaves. -/
theorem compositesAreTheirExpansions : Obligations.CompositesAreTheirExpansions := by
  intro s hc hk
  have ready : ∀ {l : List Line}, s.sess ≠ .halted → (∀ j ∈ l, s.lineIsOutput j = true) → s.ReadyOn l := fun hs ho =>
    ⟨hc, (running_iff s).mpr ⟨hk, hs⟩, ho⟩
  have fresh : s.sess = .uninit → s.ReadyOn [] := fun hs => ready (by simp [hs]) nofun
  refine ⟨fun i hs ho => ?_, fun v hs hd hclk => ?_, fun f p d hs ho hf hp => ?_, fun hs => ?_, fun hs => ?_,
    fun f p hs hf hp => ?_⟩ <;> rw [exec_eq_finish, operation] <;> congr 1
  · exact (expands_pulse (List.mem_singleton_self i) (ready hs (by simpa using ho))).finish
  · exact (expands_sendByte (l := [.data, .clk]) (by decide) (by decide) v (ready hs (by simp [hd, hclk]))).finish
  · exact (expands_loadFrequency (ready (by simp [hs]) fun j _ => ho j) hs d hf hp).finish
  · exact finish_initializeLines (fresh hs) hs
  · rw [shutdown, admitted_run hc (by rw [hs]; rfl) rfl]
    exact finish_bootAndLoad (fresh hs) hs true (by omega) (by omega)
  · rw [setFreq_eq_bootAndLoad hc hs hf hp]
    exact finish_bootAndLoad (fresh hs) hs false hf hp

end Sys2Proof.Machine
end

section
/-! PROOFS. The pseudo-instruction of R70: the operands of a line, with the phase omitted or 0. -/

namespace Sys2Proof.Machine

/-! ## Texts without spaces, and the spaces around a text -/

theorem mem_dropSpaces {c : Char} {l : List Char} (hc : c ≠ ' ') (h : c ∈ l) : c ∈ l.dropWhile (· == ' ') := by
  rw [← List.takeWhile_append_dropWhile (p := (· == ' ')) (l := l), List.mem_append] at h
  exact h.resolve_left fun ht => absurd (List.mem_takeWhile_imp ht) (by simpa using hc)

/-- A character that is no space is not dropped. -/
theorem mem_trimSpaces {c : Char} {t : List Char} (hc : c ≠ ' ') (h : c ∈ t) : c ∈ trimSpaces t :=
  List.mem_reverse.mpr (mem_dropSpaces hc (List.mem_reverse.mpr (mem_dropSpaces hc h)))

theorem dropSpaces_of_not_mem {l : List Char} (h : ' ' ∉ l) : l.dropWhile (· == ' ') = l := by
  cases l with
  | nil => rfl
  | cons x l => exact List.dropWhile_cons_of_neg (by simpa using fun e => h (by simp [e]))

theorem trimSpaces_of_not_mem {t : List Char} (h : ' ' ∉ t) : trimSpaces t = t := by
  rw [trimSpaces, dropSpaces_of_not_mem h, dropSpaces_of_not_mem (by simpa using h), List.reverse_reverse]

/-! ## The operands of `set_freq` -/

theorem asmOperands_one {f : List Char} (h : ',' ∉ f) :
    asmOperands f = if (trimSpaces f).isEmpty then [] else [trimSpaces f] := by
  rw [asmOperands, splitOnChar_of_not_mem h]
  rfl

theorem asmOperands_then_zero {f : List Char} (h : ',' ∉ f) :
    asmOperands (f ++ ", 0".toList) = [trimSpaces f, ['0']] := by
  have hmem : ',' ∈ trimSpaces (f ++ ", 0".toList) := mem_trimSpaces (by decide) (List.mem_append_right f (by decide))
  have hne : (trimSpaces (f ++ ", 0".toList)).isEmpty = false := by
    rw [List.isEmpty_eq_false_iff]
    exact List.ne_nil_of_mem hmem
  have hsplit : splitOnChar ',' (f ++ ", 0".toList) = [f, [' ', '0']] := splitOnChar_append _ h
  rw [asmOperands, hne, hsplit]
  rfl

/-- R70: with the phase omitted the operands give the command of the phase 0; with the frequency omitted, none in either form. -/
theorem asmCommand_setFreq_omitted (t : List Char) :
    asmCommand .setFreq (if t.isEmpty then [] else [t]) = asmCommand .setFreq [t, ['0']] := by
  cases t with
  | nil => rfl
  | cons c t =>
    show (asmNumber (c :: t)).map _ = (asmNumber (c :: t)).bind _
    cases asmNumber (c :: t) <;> rfl

/-- R69: a line `set_freq` without a comment. -/
theorem asmParse_setFreq {t : List Char} (h : ';' ∉ t) :
    asmParse ("set_freq ".toList ++ t) = asmCommand .setFreq (asmOperands t) := by
  have hno : ';' ∉ "set_freq ".toList ++ t := by
    rw [List.mem_append, not_or]
    exact ⟨by decide, h⟩
  rw [asmParse, dropComment_of_not_mem hno]
  rfl

/-- A comment hides what comes after it. -/
theorem dropComment_append_of_mem {l : List Char} (h : ';' ∈ l) (m : List Char) : dropComment (l ++ m) = dropComment l := by
  rw [dropComment, splitAtChar_append, if_pos h, dropComment]

/-- R70: the two lines spell the same command, or none. -/
theorem asmParse_setFreq_omitted {f : List Char} (h : ',' ∉ f) :
    asmParse ("set_freq ".toList ++ f) = asmParse ("set_freq ".toList ++ f ++ ", 0".toList) := by
  by_cases hc : ';' ∈ f
  · rw [asmParse, asmParse, dropComment_append_of_mem (List.mem_append_right _ hc)]
  · have hc' : ';' ∉ f ++ ", 0".toList := by
      rw [List.mem_append, not_or]
      exact ⟨hc, by decide⟩
    rw [List.append_assoc, asmParse_setFreq hc, asmParse_setFreq hc', asmOperands_one h, asmOperands_then_zero h,
      asmCommand_setFreq_omitted]

/-! ## Numbers -/

theorem digit_ne_none_of_digitsValue {base acc n : Nat} {digit : Char → Option Nat} {l : List Char}
    (h : digitsValue base digit acc l = some n) {c : Char} (hc : c ∈ l) : digit c ≠ none := by
  induction l generalizing acc with
  | nil => cases hc
  | cons x l ih =>
    rw [digitsValue] at h
    cases hx : digit x with
    | none => simp [hx] at h
    | some d =>
      rw [hx] at h
      rcases List.mem_cons.mp hc with rfl | hl
      · simp [hx]
      · exact ih h hl

/-- A decimal digit is a hexadecimal one. -/
theorem decimalDigit_eq_none {c : Char} (h : hexDigit c = none) : decimalDigit c = none := by
  unfold hexDigit at h
  cases hd : decimalDigit c with
  | none => rfl
  | some d => simp [hd] at h

/-- R69: a number is made of digits, but for the `x` of its mark. -/
theorem not_mem_of_asmNumber {t : List Char} {n : Nat} (h : asmNumber t = some n) {c : Char} (hd : hexDigit c = none)
    (hx : c ≠ 'x') : c ∉ t := by
  intro hc
  unfold asmNumber at h
  split at h
  · cases hc
  · rename_i rest
    split at h
    · cases h
    · have hrest : c ∈ rest := by
        rcases List.mem_cons.mp hc with rfl | hc
        · cases hd
        · exact (List.mem_cons.mp hc).resolve_left hx
      exact digit_ne_none_of_digitsValue h hrest hd
  · exact digit_ne_none_of_digitsValue h hc (decimalDigit_eq_none hd)

/-- R69, R70: a frequency alone is the one operand. -/
theorem asmParse_setFreq_number {f : List Char} {n : Nat} (h : asmNumber f = some n) :
    asmParse ("set_freq ".toList ++ f) = some (.setFreq n 0) := by
  have absent : ∀ {c : Char}, hexDigit c = none → c ≠ 'x' → c ∉ f := fun hd hx => not_mem_of_asmNumber h hd hx
  have hne : f.isEmpty = false := by
    cases f with
    | nil => cases h
    | cons => rfl
  rw [asmParse_setFreq (absent (by decide) (by decide)), asmOperands_one (absent (by decide) (by decide)),
    trimSpaces_of_not_mem (absent (by decide) (by decide)), hne]
  exact congrArg (Option.map _) h

/-- Settles O39: the two lines spell the same command, and a number of the FREQ field spells SET_FREQ, which has a word. -/
theorem omittedPhaseAssemblesAsZero : Obligations.OmittedPhaseAssemblesAsZero := by
  intro f hf
  refine ⟨by rw [assemble, assemble, asmParse_setFreq_omitted hf], fun n hn hlt => ?_⟩
  rw [assemble, asmParse_setFreq_number hn]
  exact if_pos ((wellFormed_setFreq n 0).mpr ⟨hlt, by omega⟩)

end Sys2Proof.Machine
end

section
/-! PROOFS. The pin driver's commands (R73 to R76) from any open session: what each answer of the platform leaves, and that a
line which is no exported output is refused. -/

namespace Sys2Proof.Machine

theorem exec_of_operation (i : Instr) {s : State} {m : Flow} (h : operation i s = m) : exec i s = .next m.finish := by
  rw [exec_eq_finish, h]

@[simp] theorem linesSet_linesSet {α : Type} (l : Lines α) (i : Line) (a b : α) :
    linesSet (linesSet l i a) i b = linesSet l i b := by
  cases i <;> rfl

/-! ## The loop of ENSURE_EXPORTED after some probes and requests of a line -/

/-- R73: the state after `n` probes of a line and `m` requests to make it present. -/
def State.probed (s : State) (i : Line) (n m : Nat) : State := s.requested i m (s.platform.after (countOf i n) m 0 0)

theorem probeAnswer_probed (s : State) (i : Line) (n m k : Nat) :
    (s.probed i n m).probeAnswer i k = s.probeAnswer i (n + k) := by
  simp [State.probed, State.requested, State.probeAnswer, Platform.after]

theorem exportAnswer_probed (s : State) (i : Line) (n m k : Nat) :
    (s.probed i n m).exportAnswer k = s.exportAnswer (m + k) := by
  simp [State.probed, State.requested, State.exportAnswer, Platform.after]

theorem dirAnswer_probed (s : State) (i : Line) (n m k : Nat) : (s.probed i n m).dirAnswer k = s.dirAnswer k := by
  simp [State.probed, State.requested, State.dirAnswer, Platform.after]

theorem pinProbe_probed (s : State) (i : Line) (n m : Nat) :
    pinProbe i (s.probed i n m) = (s.probeAnswer i n, s.probed i (n + 1) m) := by
  rw [pinProbe, probeAnswer_probed]
  simp [State.probed, State.requested, State.answered]

theorem pinExport_probed (s : State) (i : Line) (n m : Nat) :
    pinExport i (s.probed i n m) = (s.exportAnswer m, s.probed i n (m + 1)) := by
  rw [pinExport, exportAnswer_probed]
  simp [State.probed, State.requested, State.emit, State.answered, List.replicate_succ']

section
variable {s : State} {i : Line} {m left : Nat} (habs : ∀ k < m, s.probeAnswer i k = .absent) (hreq : s.NextExportsOk m)
include habs hreq

theorem exportLoop_eq_probed (hm : m ≤ left) : exportLoop i left s = exportLoop i (left - m) (s.probed i m m) :=
  exportLoop_absent i m left s hm habs hreq

/-- R91 (a): a probe that fails after `m` absent ones ends the loop. -/
theorem exportLoop_probe_fails {e : OsError} (hm : m ≤ left) (hf : s.probeAnswer i m = .fail e) :
    exportLoop i left s = .raise (.io (.os e)) (s.probed i (m + 1) m) := by
  have hlast := pinProbe_probed s i m m
  rw [hf] at hlast
  rw [exportLoop_eq_probed habs hreq hm]
  cases left - m <;> simp [exportLoop, hlast]

/-- R91 (b): a request that fails after `m` good ones ends the loop. -/
theorem exportLoop_request_fails {e : OsError} (hm : m < left) (hp : s.probeAnswer i m = .absent)
    (hf : s.exportAnswer m = .fail e) :
    exportLoop i left s = .raise (.io (.os e)) (s.probed i (m + 1) (m + 1)) := by
  have hlast := pinProbe_probed s i m m
  have hrequest := pinExport_probed s i (m + 1) m
  rw [hp] at hlast
  rw [hf] at hrequest
  obtain ⟨n, rfl⟩ := Nat.exists_eq_add_of_lt hm
  rw [exportLoop_eq_probed habs hreq hm.le, show m + n + 1 - m = n + 1 by omega]
  simp [exportLoop, hlast, hrequest]

/-- R91 (c): an absent probe after as many requests as allowed ends the loop. -/
theorem exportLoop_exhausted (hp : s.probeAnswer i m = .absent) :
    exportLoop i m s = .raise (.io .exportExhausted) (s.probed i (m + 1) m) := by
  have hlast := pinProbe_probed s i m m
  rw [hp] at hlast
  rw [exportLoop_eq_probed habs hreq le_rfl, Nat.sub_self]
  simp [exportLoop, hlast]

end

/-! ## ENSURE_EXPORTED -/

theorem ensureExported_eq_exportLoop {s : State} (hc : configValid s.cfg = true) (hs : s.sess ≠ .halted) (i : Line) :
    ensureExported i s = exportLoop i s.cfg.exportMaxAttempts s :=
  admitted_run hc (admits_direct hs (by simp)) rfl

/-- R73: an admitted ENSURE_EXPORTED ends as its loop does. -/
theorem exec_ensureExported {s : State} {i : Line} {m : Flow} (hc : configValid s.cfg = true) (hs : s.sess ≠ .halted)
    (h : exportLoop i s.cfg.exportMaxAttempts s = m) : exec (.ensureExported i) s = .next m.finish :=
  exec_of_operation (.ensureExported i) ((ensureExported_eq_exportLoop hc hs i).trans h)

/-- Settles O18: the loop ends at the probe that answers `PRESENT`. -/
theorem ensureExportedCompletes : Obligations.EnsureExportedCompletes := fun _ _ _ hc hs hm h =>
  exec_ensureExported hc hs (exportLoop_present hm h)

/-- Settles O19: the loop's last probe finds no request left. -/
theorem ensureExportedExhausts : Obligations.EnsureExportedExhausts := fun _ _ hc hs habs hreq =>
  exec_ensureExported hc hs (exportLoop_exhausted (fun k hk => habs k hk.le) hreq (habs _ le_rfl))

/-- Settles O20: the loop ends at the failing probe, or at the failing request. -/
theorem ensureExportedFails : Obligations.EnsureExportedFails := fun _ _ _ _ hc hs habs hreq =>
  ⟨fun hm hf => exec_ensureExported hc hs (exportLoop_probe_fails habs hreq hm hf),
    fun hm hp hf => exec_ensureExported hc hs (exportLoop_request_fails habs hreq hm hp hf)⟩

/-! ## SET_DIRECTION -/

theorem setDirection_eq_andThen {s : State} (hc : configValid s.cfg = true) (hs : s.sess ≠ .halted) (i : Line) :
    setDirection i s = (ensureExported i s).andThen (writeDirection i) :=
  admitted_run hc (admits_direct hs (by simp)) rfl

/-- R74: the state after `m` requests for a line that is then present, and a direction write. -/
def State.directed (s : State) (i : Line) (m : Nat) (d : Dir) : State :=
  { s with
    pins := linesSet s.pins i { exported := true, dir := d, level := none }
    trace := s.trace ++ List.replicate m (.exportReq i) ++ [.setDir i]
    platform := s.platform.after (countOf i (m + 1)) m 1 0 }

/-- What a direction write leaves after ENSURE_EXPORTED is the whole record of the line. -/
theorem setDir_setExported_probed (s : State) (i : Line) (m : Nat) (d : Dir) :
    (((((s.probed i (m + 1) m).setExported i).emit (.setDir i)).answered (linesAll 0) 0 1 0).setDir i d) =
      s.directed i m d := by
  simp [State.directed, State.probed, State.requested, State.setExported, State.setDir, State.setPin, State.emit,
    State.answered, State.pin]

section
variable {s : State} {i : Line} {m : Nat} (hc : configValid s.cfg = true) (hs : s.sess ≠ .halted)
  (hm : m ≤ s.cfg.exportMaxAttempts) (h : s.PresentAfter i m)
include hc hs hm h

theorem setDirection_present :
    setDirection i s = writeDirection i ((s.probed i (m + 1) m).setExported i) := by
  rw [setDirection_eq_andThen hc hs, ensureExported_eq_exportLoop hc hs, exportLoop_present hm h]
  rfl

theorem setDirection_ok (hd : s.dirAnswer 0 = .ok) : setDirection i s = .ok (s.directed i m .out) := by
  have hd' : ((s.probed i (m + 1) m).setExported i).dirAnswer 0 = .ok := (dirAnswer_probed s i _ m 0).trans hd
  rw [setDirection_present hc hs hm h, writeDirection, pinSetDir, hd', ← setDir_setExported_probed]

theorem setDirection_dir_fails {e : OsError} (hd : s.dirAnswer 0 = .fail e) :
    setDirection i s = .raise (.io (.os e)) (s.directed i m .unknown) := by
  have hd' : ((s.probed i (m + 1) m).setExported i).dirAnswer 0 = .fail e := (dirAnswer_probed s i _ m 0).trans hd
  rw [setDirection_present hc hs hm h, writeDirection, pinSetDir, hd', ← setDir_setExported_probed]

end

/-- Settles O21: the direction write of the present line answers `OK`. -/
theorem setDirectionCompletes : Obligations.SetDirectionCompletes := fun _ i _ hc hs hm h hd =>
  exec_of_operation (.setDirection i) (setDirection_ok hc hs hm h hd)

/-- R74: an ENSURE_EXPORTED that ends the session or hangs was admitted and did not complete, so it ends the SET_DIRECTION
that contains it (R17), with `exportReq` events for its only ones. -/
theorem setDirection_of_ensureExported_cut {s : State} {i : Line} (hs : s.sess ≠ .halted) (hk : s.stuck = false)
    (hcut : (ensureExported i s).finish.sess = .halted ∨ (ensureExported i s).finish.stuck = true) :
    setDirection i s = ensureExported i s ∧ ∃ n p, (ensureExported i s).state = s.requested i n p := by
  have hopen : ¬ (s.sess = .halted ∨ s.stuck = true) := by simp [hs, hk]
  rcases admitted_cases .ensureExported noChecks (fun s => exportLoop i s.cfg.exportMaxAttempts s) s with
    ⟨r, -, e⟩ | ⟨r, -, hno, -⟩ | ⟨hc, -, -, e⟩
  · rw [ensureExported, e] at hcut
    exact absurd hcut hopen
  · cases hno
  · obtain ⟨n, -, p, hl | ⟨info, hl⟩ | hl⟩ := exportLoop_cases i s.cfg.exportMaxAttempts s <;>
      have he : ensureExported i s = _ := e.trans hl
    · rw [he] at hcut
      exact absurd hcut hopen
    · rw [setDirection_eq_andThen hc hs, he]
      exact ⟨rfl, n, p, rfl⟩
    · rw [setDirection_eq_andThen hc hs, he]
      exact ⟨rfl, n, p, rfl⟩

/-- Settles O22: the direction write answers `FAIL`, or the ENSURE_EXPORTED inside is the last operation. -/
theorem setDirectionFails : Obligations.SetDirectionFails := by
  refine ⟨fun s i m e hc hs hm h hd => exec_of_operation (.setDirection i) (setDirection_dir_fails hc hs hm h hd),
    fun s t i hs hk he hcut => ?_⟩
  rw [exec_eq_finish] at he
  cases he
  obtain ⟨hsame, n, p, hstate⟩ := setDirection_of_ensureExported_cut hs hk hcut
  refine ⟨exec_of_operation (.setDirection i) hsame, lines_ext fun j => ?_, n, ?_⟩
  · exact (finish_pin _ j).trans (congrArg (State.pin · j) hstate : _ = (s.requested i n p).pin j)
  · exact (finish_trace _).trans (congrArg State.trace hstate)

/-! ## Writes to one output -/

/-- R75: the state after some level writes to an output, its level then `l`. -/
def State.droveTo (s : State) (i : Line) (bs : List Bool) (l : Option Bool) : State :=
  { s with
    pins := linesSet s.pins i { exported := true, dir := .out, level := l }
    trace := s.trace ++ bs.map (.write i)
    platform := s.platform.after (linesAll 0) 0 0 bs.length }

/-- The level writes of one line. -/
def writesTo (i : Line) (bs : List Bool) : List (Line × Bool) := bs.map (i, ·)

@[simp] theorem length_writesTo (i : Line) (bs : List Bool) : (writesTo i bs).length = bs.length := List.length_map ..

@[simp] theorem map_writeEvent_writesTo (i : Line) (bs : List Bool) :
    (writesTo i bs).map writeEvent = bs.map (Event.write i) := by
  rw [writesTo, List.map_map]
  rfl

/-- A record written over those of earlier writes to the line is all that is left of them. -/
theorem linesSet_drivenPins (p : Lines Pin) (i : Line) (bs : List Bool) (q : Pin) :
    linesSet (drivenPins p (bs.map (Event.write i))) i q = linesSet p i q := by
  induction bs generalizing p with
  | nil => rfl
  | cons b bs ih => exact (ih _).trans (linesSet_linesSet ..)

section
variable {s : State} {i : Line} (ho : s.lineIsOutput i = true) {bs : List Bool} (hw : s.NextWritesOk bs.length)
include ho hw

/-- The last write to an output, after some that answered `OK`, leaves the line an output of the level it leaves. -/
theorem setLevel_wroteAll (b : Bool) (l : Option Bool) :
    (((s.wroteAll (writesTo i bs)).emit (.write i b)).answered (linesAll 0) 0 0 1).setLevel i l =
      s.droveTo i (bs ++ [b]) l := by
  have hgate := sameGate_driveAll (driveAll_ok (l := writesTo i bs) (by simpa using hw))
  obtain ⟨hexp, hdir⟩ := (lineIsOutput_iff _ i).mp ((hgate.output i).trans ho)
  simp only [State.setLevel, State.pin_answered, State.pin_emit, hexp, hdir]
  simp [State.setPin, State.answered, State.emit, State.wroteAll, State.droveTo, linesSet_drivenPins]

/-- R75: the last of some writes to an output answers `OK`, as those before it. -/
theorem driveAll_writesTo_ok {b : Bool} (h : s.writeAnswer bs.length = .ok) :
    driveAll (writesTo i (bs ++ [b])) s = .ok (s.droveTo i (bs ++ [b]) (some b)) := by
  have hlast : (s.wroteAll (writesTo i bs)).writeAnswer 0 = .ok := by simpa using h
  rw [writesTo, List.map_append, ← writesTo, driveAll_split (by simpa using hw), List.map_singleton, driveAll_single,
    driveLevel, pinWrite, hlast, ← setLevel_wroteAll ho hw]

/-- R75, R97 (e): a write to an output fails after some that answered `OK`: it is the last. -/
theorem driveAll_writesTo_fail {b : Bool} {rest : List Bool} {e : OsError} (h : s.writeAnswer bs.length = .fail e) :
    driveAll (writesTo i (bs ++ b :: rest)) s = .raise (.io (.os e)) (s.droveTo i (bs ++ [b]) none) := by
  rw [writesTo, List.map_append, ← writesTo, List.map_cons, driveAll_fail (by simpa using hw) (by simpa using h),
    ← setLevel_wroteAll ho hw]
  rfl

end

/-- Settles O23: WRITE_LEVEL of an output is its one write. -/
theorem writeLevelWrites : Obligations.WriteLevelWrites := by
  intro s i b hc hs hexp hdir
  have ho := (lineIsOutput_iff s i).mpr ⟨hexp, hdir⟩
  have hnone : s.NextWritesOk 0 := fun k hk => absurd hk k.not_lt_zero
  have hrun {m : Flow} (h : driveAll (writesTo i [b]) s = m) : exec (.writeLevel i b) s = .next m.finish :=
    exec_of_operation (.writeLevel i b) ((writeLevel_eq_driveAll hc hs ho).trans h)
  exact ⟨fun h => hrun (driveAll_writesTo_ok (bs := []) ho hnone h),
    fun e h => hrun (driveAll_writesTo_fail (bs := []) ho hnone h)⟩

/-- Settles O24: PULSE of an output is its two writes, of which the first or the second may fail. -/
theorem pulseWritesHighThenLow : Obligations.PulseWritesHighThenLow := by
  intro s i hc hs hexp hdir
  have ho := (lineIsOutput_iff s i).mpr ⟨hexp, hdir⟩
  have hnone : s.NextWritesOk 0 := fun k hk => absurd hk k.not_lt_zero
  have hone (h : s.writeAnswer 0 = .ok) : s.NextWritesOk 1 := fun k hk => by rwa [Nat.lt_one_iff.mp hk]
  have hrun {m : Flow} (h : driveAll (writesTo i [true, false]) s = m) : exec (.pulse i) s = .next m.finish :=
    exec_of_operation (.pulse i) ((pulse_eq_driveAll hc hs ho).trans h)
  exact ⟨fun hw => hrun (driveAll_writesTo_ok (bs := [true]) ho (hone (hw 0 (by omega))) (hw 1 (by omega))),
    fun e h => hrun (driveAll_writesTo_fail (bs := []) ho hnone h),
    fun e h0 h => hrun (driveAll_writesTo_fail (bs := [true]) ho (hone h0) h)⟩

/-! ## Lines that are no exported output -/

theorem lineIsOutput_eq_false {s : State} {i : Line} (h : (s.pin i).exported = false ∨ (s.pin i).dir ≠ .out) :
    s.lineIsOutput i = false := by
  rw [← Bool.not_eq_true, lineIsOutput_iff]
  rintro ⟨hexp, hdir⟩
  rcases h with h | h
  · simp [hexp] at h
  · exact h hdir

theorem lineCheck_refuses {s : State} {i : Line} (h : s.lineIsOutput i = false) : lineCheck i s = some .lineNotOutput := by
  simp [lineCheck, h]

theorem serialCheck_refuses {s : State} (h : s.lineIsOutput .data = false ∨ s.lineIsOutput .clk = false) :
    serialCheck s = some .lineNotOutput := by
  rcases h with h | h <;> simp [serialCheck, h]

/-- Settles O16: the session admits the command, and its own check refuses it. -/
theorem lineNotOutputIsRefused : Obligations.LineNotOutputIsRefused := by
  intro i b v s hc hs
  refine ⟨fun h => ?_, fun h => ?_⟩
  · have hcheck := lineCheck_refuses (lineIsOutput_eq_false h)
    have hwrite : writeLevel i b s = .refuse .lineNotOutput s :=
      admitted_check_refuse hc (admits_direct hs (by simp)) hcheck
    have hpulse : pulse i s = .refuse .lineNotOutput s := admitted_check_refuse hc (admits_direct hs (by simp)) hcheck
    exact ⟨exec_of_operation (.writeLevel i b) hwrite, exec_of_operation (.pulse i) hpulse⟩
  · rw [← or_assoc] at h
    have hcheck := serialCheck_refuses (h.imp lineIsOutput_eq_false lineIsOutput_eq_false)
    have hsend : sendByte v s = .refuse .lineNotOutput s := admitted_check_refuse hc (admits_direct hs (by simp)) hcheck
    exact exec_of_operation (.sendByte v) hsend

end Sys2Proof.Machine
end

section
/-! PROOFS. The serializer (R77): what the bits of a byte leave of the lines, and a frame that a failing write cuts short
(R97, R118). -/

namespace Sys2Proof.Machine

/-! ## SEND_BYTE -/

/-- R77: after some bits DATA holds the last of them and CLK is low; the other lines are as before. -/
theorem drivenPins_flatMap_bitEvents (p : Lines Pin) (bits : List Bool) (b : Bool) :
    drivenPins p ((bits ++ [b]).flatMap bitEvents) =
      { p with data := { p.data with level := some b }, clk := { p.clk with level := some false } } := by
  induction bits generalizing p with
  | nil => rfl
  | cons c bits ih => exact ih _

theorem byteEvents_eq_flatMap_bits (v : Byte) : byteEvents v = ((List.range 8).map v.getLsbD).flatMap bitEvents :=
  (List.flatMap_map ..).symm

/-- R77: SEND_BYTE of writes that all answer `OK`. -/
theorem sendByte_ok {s : State} {v : Byte} (hc : configValid s.cfg = true) (hs : s.sess ≠ .halted)
    (hd : s.lineIsOutput .data = true) (hk : s.lineIsOutput .clk = true) (hw : s.NextWritesOk 24) :
    sendByte v s = .ok (s.wroteAll (byteWrites v)) :=
  (sendByte_eq_driveAll hc hs hd hk).trans (driveAll_ok hw)

/-- Settles O25: the byte is its 24 writes, and its last bit is `v[7]`. -/
theorem sendByteShiftsOutTheByte : Obligations.SendByteShiftsOutTheByte := by
  intro s v hc hs hd hk hw
  have hpins := drivenPins_flatMap_bitEvents s.pins ((List.range 7).map v.getLsbD) (v.getLsbD 7)
  rw [← List.map_singleton, ← List.map_append, ← List.range_succ, ← byteEvents_eq_flatMap_bits] at hpins
  rw [exec_of_operation (.sendByte v) (sendByte_ok hc hs hd hk hw), finish_ok, State.wroteAll, ← byteEvents_eq, hpins]
  rfl

/-! ## A frame cut short -/

/-- R75, R97 (e): the state after the first `k` of some writes and one more, to line `i`, that has failed. -/
def State.failedAt (s : State) (l : List Event) (k : Nat) (i : Line) : State :=
  ({ s with
    pins := drivenPins s.pins (l.take k)
    trace := s.trace ++ l.take (k + 1)
    platform := s.platform.after (linesAll 0) 0 0 (k + 1) }).setLevel i none

/-- R97 (e): the write after the first `k` of a list, all good, fails: the list ends there. -/
theorem driveAll_failedAt {l : List (Line × Bool)} {k : Nat} {p : Line × Bool} {s : State} {e : OsError}
    (hp : l[k]? = some p) (hw : s.NextWritesOk k) (hf : s.writeAnswer k = .fail e) :
    driveAll l s = .raise (.io (.os e)) (s.failedAt (l.map writeEvent) k p.1) := by
  obtain ⟨hk, rfl⟩ := List.getElem?_eq_some_iff.mp hp
  have hlen : (l.take k).length = k := List.length_take_of_le hk.le
  have hrun : driveAll (l.take k ++ l[k] :: l.drop (k + 1)) s = _ := driveAll_fail (by rwa [hlen]) (by rwa [hlen])
  rw [← List.drop_eq_getElem_cons hk, List.take_append_drop] at hrun
  rw [hrun]
  simp [State.failedAt, State.wroteAll, State.emit, State.answered, State.setLevel, State.setPin, State.pin,
    List.map_take, hlen, List.take_add_one, hk]

/-- R81: an admitted LOAD_FREQUENCY of operands in range is the writes of its frame. -/
theorem loadFrequency_eq_driveAll {s : State} {f p : Nat} (d : Bool) (hc : configValid s.cfg = true) (hs : s.sess = .booted)
    (ho : s.AllOutputs) (hf : f ≤ 40000000) (hp : p ≤ 31) :
    loadFrequency f p d s = driveAll (frameWrites (frameOf f p d)) s := by
  have hcheck : loadCheck f p s = none := (if_pos hf).trans (if_pos hp)
  rw [loadFrequency, admitted_run hc (by rw [hs]; rfl) hcheck, sendFrame_eq_driveAll hc (by simp [hs]) ho]

/-- R81: event `k` of a frame is that of its write `k`. -/
theorem getElem?_frameWrites {frame : List Byte} {k : Nat} {i : Line} {b : Bool}
    (h : (frameEvents frame)[k]? = some (.write i b)) : (frameWrites frame)[k]? = some (i, b) := by
  rw [frameEvents_eq, List.getElem?_map, Option.map_eq_some_iff] at h
  obtain ⟨p, hp, he⟩ := h
  cases he
  exact hp

/-- Settles O28: the frame is its list of writes, which ends at the failing one. -/
theorem frameAbandonedAtTheFailingWrite : Obligations.FrameAbandonedAtTheFailingWrite := by
  intro s f p d k i b e hc hs ho hf hp hk hw hfail
  have hrun := (loadFrequency_eq_driveAll d hc hs ho hf hp).trans (driveAll_failedAt (getElem?_frameWrites hk) hw hfail)
  rw [← frameEvents_eq] at hrun
  exact exec_of_operation (.loadFrequency f p d) hrun

end Sys2Proof.Machine
end

section
/-! PROOFS. The encoder (R78 to R81): the tuning word is the exact floor, the control byte determines its operands, and
LOAD_FREQUENCY sends the frame of its control word. -/

namespace Sys2Proof.Machine

/-! ## The frame of LOAD_FREQUENCY -/

theorem drivenPins_append (p : Lines Pin) (l m : List Event) : drivenPins p (l ++ m) = drivenPins (drivenPins p l) m := by
  induction l generalizing p with
  | nil => rfl
  | cons e l ih => cases e <;> exact ih _

/-- R58, R59: the last bit of a control word sent is bit 4 of the phase. -/
theorem wordOf_getLsbD_last (f p : Nat) (d : Bool) : (wordOf f p d).getLsbD 39 = p.testBit 4 := by
  rw [wordOf, controlWord_getLsbD_high _ _ 7, controlByte_eq_append, BitVec.getLsbD_append, BitVec.getLsbD_append]
  exact BitVec.getLsbD_ofNat 5 p 4

/-- R81: a frame leaves DATA at bit 4 of the phase and CLK and UPDATE low; RESET is as before. -/
theorem drivenPins_frameEvents (pins : Lines Pin) (f p : Nat) (d : Bool) :
    drivenPins pins (frameEvents (frameOf f p d)) =
      { pins with
        data := { pins.data with level := some (p.testBit 4) }
        clk := { pins.clk with level := some false }
        update := { pins.update with level := some false } } := by
  have hbits : bitsOf (wordOf f p d) = (List.range 39).map (wordOf f p d).getLsbD ++ [p.testBit 4] := by
    rw [bitsOf, List.range_succ, List.map_append, List.map_singleton, wordOf_getLsbD_last]
  rw [frameEvents_frameOf, drivenPins_append, hbits, drivenPins_flatMap_bitEvents]
  rfl

/-- R58, R81: the events of a frame are those of the five bytes of its control word, then the pulse of UPDATE. -/
theorem frameEvents_frameOf_bytes (f p : Nat) (d : Bool) :
    frameEvents (frameOf f p d) =
      (List.range 5).flatMap (fun j => byteEvents (wordByte (wordOf f p d) j)) ++ pulseEvents .update := by
  rw [frameEvents, frameOf, commandFrame_eq_map, List.flatMap_map, wordOf]

theorem length_frameEvents_frameOf (f p : Nat) (d : Bool) : (frameEvents (frameOf f p d)).length = 122 := by
  rw [frameEvents_eq, List.length_map, frameWrites_length]

/-- Settles O26: the command is the 122 writes of its frame, the last of DATA being `W[39]`, bit 4 of the phase. -/
theorem loadFrequencySendsTheFrame : Obligations.LoadFrequencySendsTheFrame := by
  intro s f p d hc hs ho hf hp hw
  refine ⟨length_frameEvents_frameOf f p d, ?_⟩
  rw [exec_of_operation (.loadFrequency f p d) (loadFrequency_ok hc hs ho hf hp hw), finish_ok, State.wroteAll,
    ← frameEvents_eq, frameWrites_length, drivenPins_frameEvents, frameEvents_frameOf_bytes, ← List.append_assoc]
  rfl

/-! ## The tuning word -/

/-- R78: on the domain the floor fits 32 bits, so the tuning word is the floor. -/
theorem tuningWord_toNat {f : Nat} (hf : f ≤ 40000000) : (tuningWord f).toNat = f * 2 ^ 32 / 125000000 := by
  rw [tuningWord, BitVec.toNat_ofNat, tuningWordNat, Config.refclk, Nat.mod_eq_of_lt (by omega)]

/-- R80 (d): the fraction 2^32 / 125000000 in lowest terms is 2^26 / 1953125. -/
theorem refclk_dvd_scaled_iff (f : Nat) : 125000000 ∣ f * 2 ^ 32 ↔ 1953125 ∣ f := by
  have hcop : Nat.Coprime 1953125 (2 ^ 26) := by decide
  rw [show 125000000 = 1953125 * 64 from rfl, show f * 2 ^ 32 = f * 2 ^ 26 * 64 by omega,
    Nat.mul_dvd_mul_iff_right (by decide), hcop.dvd_mul_right]

/-- R67, R78: LOAD_FREQUENCY above P_FMAX is refused in every state, at its admission or by its own check. -/
theorem loadFrequency_wide_freq {f : Nat} (hf : f > 40000000) (p : Nat) (d : Bool) (s : State) :
    ∃ r, loadFrequency f p d s = .refuse r s := by
  rcases admitted_cases .loadFrequency (loadCheck f p) (sendFrame (frameOf f p d)) s with
    ⟨r, -, h⟩ | ⟨r, -, -, h⟩ | ⟨-, -, hcheck, -⟩
  · exact ⟨r, h⟩
  · exact ⟨r, h⟩
  · rw [loadCheck_wide_freq hf] at hcheck
    cases hcheck

/-- Settles O7: 2^32 and 125000000 have the common factor 64, and f stays below 2^26. -/
theorem tuningWordIsTheFloor : Obligations.TuningWordIsTheFloor := by
  refine ⟨fun f hf => ?_, rfl, rfl, rfl, fun f p d s hf => ?_⟩
  · rw [tuningWord_toNat hf]
    omega
  · obtain ⟨r, hr⟩ := loadFrequency_wide_freq hf p d s
    exact ⟨_, exec_of_operation (.loadFrequency f p d) hr, rfl, rfl, rfl⟩

/-- Settles O8: the laws of a floor; there is no remainder where the divisor in lowest terms divides the frequency. -/
theorem tuningWordLaws : Obligations.TuningWordLaws := by
  intro f hf
  refine ⟨fun g hg => ?_, ?_⟩
  · rw [tuningWord_toNat (hg.trans hf), tuningWord_toNat hf]
    exact Nat.div_le_div_right (Nat.mul_le_mul_right _ hg)
  · rw [tuningWord_toNat hf, ← Nat.dvd_iff_div_mul_eq, refclk_dvd_scaled_iff]
    exact ⟨Nat.div_mul_le_self _ _, by omega, .rfl⟩

/-! ## The control byte -/

/-- R80 (g): the phase and the flag are fields of the control byte. -/
theorem controlByte_inj {p q : Nat} {d e : Bool} (hp : p ≤ 31) (hq : q ≤ 31) (h : controlByte p d = controlByte q e) :
    p = q ∧ d = e := by
  have hphase := congrArg (fun b : Byte => (b.extractLsb' 3 5).toNat) h
  have hflag := congrArg (fun b : Byte => b.getLsbD 2) h
  simp only [controlByte_phase, controlByte_powerDown, BitVec.toNat_ofNat] at hphase hflag
  exact ⟨by omega, hflag⟩

theorem ofNat_shiftLeft (w n i : Nat) : BitVec.ofNat w (n <<< i) = BitVec.ofNat w n <<< i := by
  apply BitVec.eq_of_toNat_eq
  simp [Nat.shiftLeft_eq]

/-- R79: the control byte is the formula of the rule over the integers. -/
theorem controlByte_eq_ofNat (p : Nat) (d : Bool) :
    controlByte p d = BitVec.ofNat 8 (p <<< 3 ||| (if d then 1 else 0) <<< 2) := by
  rw [controlByte, BitVec.ofNat_or, ofNat_shiftLeft, ofNat_shiftLeft]
  cases d <;> rfl

/-- R80 (g): the two low bits of the control byte are 0. -/
theorem controlByte_and_three (p : Nat) (d : Bool) : controlByte p d &&& 0x03 = 0 := by
  rw [controlByte_eq_append, show (0x03 : Byte) = 0#6 ++ 3#2 from rfl, BitVec.and_append]
  simp

/-- Settles O10: the byte's fields are its operands and two zeros. -/
theorem controlByteDeterminesItsOperands : Obligations.ControlByteDeterminesItsOperands := fun p _ d _ hp hq =>
  ⟨controlByte_eq_ofNat p d, controlByte_and_three p d, controlByte_inj hp hq⟩

end Sys2Proof.Machine
end

section
/-! PROOFS. The step runs the host's next command (R84), which the table of R82 refuses at once or admits with every operation
inside it. -/

namespace Sys2Proof.Machine

/-! ## The host's next word -/

/-- Settles O37: a word that decodes is read as its command, which the step takes and runs. -/
theorem stepRunsTheDecodedCommand : Obligations.StepRunsTheDecodedCommand := by
  intro s w rest i hk hi hw
  have hread : readInput (.word w) = .ok i := by simp [readInput, hw]
  exact step_of_readInput_ok hk hi hread

/-! ## The admission table -/

/-- R82: the cells of the table that refuse. -/
theorem admits_eq_false_iff (i : Instr) (x : Sess) :
    admits i.opcode x = false ↔
      x = .halted ∨ (x = .uninit ∧ ∃ f p d, i = .loadFrequency f p d) ∨
        (x = .booted ∧ (i = .initializeLines ∨ (∃ f p, i = .setFreq f p) ∨ i = .shutdown)) := by
  cases x with
  | halted => cases i <;> simp [admits, Instr.opcode]
  | uninit => cases i <;> simp [admits, Instr.opcode]
  | booted => cases i <;> simp [admits, Instr.opcode]

theorem admission_badState {op : Opcode} {s : State} (hc : configValid s.cfg = true) (ha : admits op s.sess = false) :
    admission op s = some .badState := by
  simp [admission, hc, ha]

/-- R82: an operation is not refused for its session state, and where it completes the session state is `x`, the configuration
valid. -/
def Flow.AdmittedTo (x : Sess) (m : Flow) : Prop :=
  match m with
  | .ok t => configValid t.cfg = true ∧ t.sess = x
  | .raise _ _ => True
  | .hang _ => True
  | .refuse r _ => r ≠ .badState

/-- R82: an operation that the table admits in a session state, with every operation inside it, and leads to another. -/
def AdmittedFrom (x y : Sess) (op : State → Flow) : Prop := ∀ s, configValid s.cfg = true → s.sess = x → (op s).AdmittedTo y

theorem admittedFrom_andThen {x y z : Sess} {op k : State → Flow} (h : AdmittedFrom x y op) (hk : AdmittedFrom y z k) :
    AdmittedFrom x z fun s => (op s).andThen k := by
  intro s hc hs
  have hop := h s hc hs
  dsimp only
  cases ho : op s <;> rw [ho] at hop
  case ok t => exact hk t hop.1 hop.2
  case raise | hang | refuse => exact hop

theorem admittedFrom_forEach {α : Type} {x : Sess} {op : α → State → Flow} (h : ∀ a, AdmittedFrom x x (op a)) (l : List α) :
    AdmittedFrom x x (forEach op l) := by
  induction l with
  | nil => exact fun _ hc hs => ⟨hc, hs⟩
  | cons a l ih => exact admittedFrom_andThen (h a) ih

/-- R82, R96: an operation the table admits is refused by its own checks only, and none of them says `BAD_STATE`. -/
theorem admittedFrom_admitted {x y : Sess} {o : Opcode} {checks : State → Option RefusalReason} {body : State → Flow}
    (ha : admits o x = true) (hk : ∀ s, checks s ≠ some .badState) (h : AdmittedFrom x y body) :
    AdmittedFrom x y (admitted o checks body) := by
  intro s hc hs
  rcases admitted_cases o checks body s with ⟨r, hr, -⟩ | ⟨r, -, hr, e⟩ | ⟨-, -, -, e⟩
  · rw [admission_none hc (hs ▸ ha)] at hr
    cases hr
  · rw [e]
    exact fun hbad => hk s (hbad ▸ hr)
  · rw [e]
    exact h s hc hs

/-! ### The checks an operation makes of its own -/

theorem noChecks_ne_badState (s : State) : noChecks s ≠ some .badState := nofun

theorem lineCheck_ne_badState (i : Line) (s : State) : lineCheck i s ≠ some .badState := by
  unfold lineCheck; split <;> nofun

theorem serialCheck_ne_badState (s : State) : serialCheck s ≠ some .badState := by
  unfold serialCheck; split <;> nofun

theorem phaseCheck_ne_badState (p : Nat) (s : State) : phaseCheck p s ≠ some .badState := by
  unfold phaseCheck; split <;> nofun

theorem loadCheck_ne_badState (f p : Nat) (s : State) : loadCheck f p s ≠ some .badState := by
  unfold loadCheck
  split
  · exact phaseCheck_ne_badState p s
  · nofun

/-! ### The operations of an open session -/

section

variable {x : Sess} (hx : x ≠ .halted)
include hx

theorem admittedFrom_ensureExported (i : Line) : AdmittedFrom x x (ensureExported i) := by
  refine admittedFrom_admitted (admits_direct hx (by simp)) noChecks_ne_badState fun s hc hs => ?_
  obtain ⟨m, -, p, e | ⟨info, e⟩ | e⟩ := exportLoop_cases i s.cfg.exportMaxAttempts s <;> rw [e]
  · exact ⟨hc, hs⟩
  · trivial
  · trivial

theorem admittedFrom_setDirection (i : Line) : AdmittedFrom x x (setDirection i) := by
  refine admittedFrom_admitted (admits_direct hx (by simp)) noChecks_ne_badState
    (admittedFrom_andThen (admittedFrom_ensureExported hx i) fun s hc hs => ?_)
  rcases writeDirection_cases i s with ⟨-, e⟩ | ⟨err, -, e⟩ | ⟨-, e⟩ <;> rw [e]
  · exact ⟨hc, hs⟩
  · trivial
  · trivial

theorem admittedFrom_writeLevel (i : Line) (b : Bool) : AdmittedFrom x x (writeLevel i b) := by
  refine admittedFrom_admitted (admits_direct hx (by simp)) (lineCheck_ne_badState i) fun s hc hs => ?_
  rcases driveLevel_cases i b s with ⟨-, e⟩ | ⟨err, -, e⟩ | ⟨-, e⟩ <;> rw [e]
  · exact ⟨hc, hs⟩
  · trivial
  · trivial

theorem admittedFrom_pulse (i : Line) : AdmittedFrom x x (pulse i) :=
  admittedFrom_admitted (admits_direct hx (by simp)) (lineCheck_ne_badState i)
    (admittedFrom_andThen (admittedFrom_writeLevel hx i true) (admittedFrom_writeLevel hx i false))

theorem admittedFrom_sendBits (n : Nat) (v : Byte) : AdmittedFrom x x (sendBits n v) := by
  induction n generalizing v with
  | zero => exact fun _ hc hs => ⟨hc, hs⟩
  | succ n ih =>
    exact admittedFrom_andThen
      (admittedFrom_andThen (admittedFrom_writeLevel hx .data _) (admittedFrom_pulse hx .clk)) (ih _)

theorem admittedFrom_sendByte (v : Byte) : AdmittedFrom x x (sendByte v) :=
  admittedFrom_admitted (admits_direct hx (by simp)) serialCheck_ne_badState (admittedFrom_sendBits hx 8 v)

end

/-! ### The operations that ask for one session state -/

theorem admittedFrom_loadFrequency (f p : Nat) (d : Bool) : AdmittedFrom .booted .booted (loadFrequency f p d) := by
  have hb : Sess.booted ≠ .halted := nofun
  exact admittedFrom_admitted rfl (loadCheck_ne_badState f p)
    (admittedFrom_andThen (admittedFrom_forEach (admittedFrom_sendByte hb) _) (admittedFrom_pulse hb .update))

theorem admittedFrom_initializeLines : AdmittedFrom .uninit .booted initializeLines := by
  have hu : Sess.uninit ≠ .halted := nofun
  have hprepare (i : Line) : AdmittedFrom .uninit .uninit (prepareLine i) :=
    admittedFrom_andThen (admittedFrom_ensureExported hu i) (admittedFrom_setDirection hu i)
  exact admittedFrom_admitted rfl noChecks_ne_badState <|
    admittedFrom_andThen (admittedFrom_forEach hprepare _) <|
    admittedFrom_andThen (admittedFrom_forEach (fun i => admittedFrom_writeLevel hu i false) _) <|
    admittedFrom_andThen (admittedFrom_forEach (admittedFrom_pulse hu) _) fun _ hc _ => ⟨hc, rfl⟩

/-- R83, R86: the bootstrap leaves the session state in which LOAD_FREQUENCY is admitted. -/
theorem admittedFrom_bootAndLoad (f p : Nat) (d : Bool) : AdmittedFrom .uninit .halted (bootAndLoad f p d) :=
  admittedFrom_andThen admittedFrom_initializeLines <|
  admittedFrom_andThen (admittedFrom_loadFrequency f p d) fun _ hc _ => ⟨hc, rfl⟩

theorem admittedFrom_setFreq (f p : Nat) : AdmittedFrom .uninit .halted (setFreq f p) := by
  refine admittedFrom_admitted rfl (phaseCheck_ne_badState p) fun s hc hs => ?_
  split
  · trivial
  · exact admittedFrom_bootAndLoad f p false s hc hs

theorem admittedFrom_shutdown : AdmittedFrom .uninit .halted shutdown :=
  admittedFrom_admitted rfl noChecks_ne_badState (admittedFrom_bootAndLoad 0 0 true)

/-! ### Every command -/

/-- R82: a command the table admits leads from its session state to some other. -/
theorem admittedFrom_operation {i : Instr} {x : Sess} (h : admits i.opcode x = true) :
    ∃ y, AdmittedFrom x y (operation i) := by
  have hx : x ≠ .halted := fun hx => by
    rw [(admits_eq_false_iff i x).mpr (.inl hx)] at h
    cases h
  cases i with
  | ensureExported i => exact ⟨x, admittedFrom_ensureExported hx i⟩
  | setDirection i => exact ⟨x, admittedFrom_setDirection hx i⟩
  | writeLevel i b => exact ⟨x, admittedFrom_writeLevel hx i b⟩
  | pulse i => exact ⟨x, admittedFrom_pulse hx i⟩
  | sendByte v => exact ⟨x, admittedFrom_sendByte hx v⟩
  | loadFrequency f p d =>
    obtain rfl : x = .booted := by cases x <;> cases h; rfl
    exact ⟨_, admittedFrom_loadFrequency f p d⟩
  | initializeLines =>
    obtain rfl : x = .uninit := by cases x <;> cases h; rfl
    exact ⟨_, admittedFrom_initializeLines⟩
  | setFreq f p =>
    obtain rfl : x = .uninit := by cases x <;> cases h; rfl
    exact ⟨_, admittedFrom_setFreq f p⟩
  | shutdown =>
    obtain rfl : x = .uninit := by cases x <;> cases h; rfl
    exact ⟨_, admittedFrom_shutdown⟩

/-- An admitted operation that only makes progress leaves the reason `BAD_STATE` only where it stood before. -/
theorem refusal_finish_of_admittedTo {s : State} {y : Sess} {m : Flow} (hp : Progress s m.state) (hm : m.AdmittedTo y)
    (h : m.finish.refusal = some .badState) : s.refusal = some .badState := by
  cases m with
  | ok | raise | hang => exact hp.refusal.symm.trans h
  | refuse r t => exact absurd (Option.some.inj h) hm

/-- Settles O14: a cell that refuses is a refusal at the command's admission; in a cell that admits, every operation inside
the command meets a session state that admits it. -/
theorem sessionAdmission : Obligations.SessionAdmission := by
  intro i s hc
  dsimp only
  rw [← admits_eq_false_iff, Bool.not_eq_false]
  refine ⟨fun h => exec_of_admission_some (admission_badState hc h), fun h t ht hbad => ?_⟩
  rw [exec_eq_finish] at ht
  cases ht
  obtain ⟨y, hop⟩ := admittedFrom_operation h
  exact refusal_finish_of_admittedTo (progress_operation i s) (hop s hc rfl) hbad

end Sys2Proof.Machine
end

section
/-! PROOFS. Whatever the platform answers, a command appends a bounded number of events (R89). -/

namespace Sys2Proof.Machine

/-! ## The ways operations are put together -/

/-- R89: from every state the operation appends at most `w` events beside those of `r` calls of ENSURE_EXPORTED, and leaves the
configuration. -/
def AppendsAtMost (r w : Nat) (op : State → Flow) : Prop :=
  ∀ s, (op s).state.cfg = s.cfg ∧
    ∃ l, (op s).state.trace = s.trace ++ l ∧ l.length ≤ r * s.cfg.exportMaxAttempts + w

theorem appendsAtMost_andThen {r w r' w' : Nat} {op k : State → Flow} (h : AppendsAtMost r w op)
    (hk : AppendsAtMost r' w' k) : AppendsAtMost (r + r') (w + w') fun s => (op s).andThen k := by
  intro s
  obtain ⟨hcfg, a, htrace, hlen⟩ := h s
  have hmul := Nat.add_mul r r' s.cfg.exportMaxAttempts
  dsimp only
  cases ho : op s <;> rw [ho] at hcfg htrace
  case ok t =>
    obtain ⟨hcfg', b, htrace', hlen'⟩ := hk t
    rw [show t.cfg = s.cfg from hcfg] at hcfg' hlen'
    refine ⟨hcfg', a ++ b, ?_, ?_⟩
    · rw [andThen_ok, htrace', show t.trace = s.trace ++ a from htrace, List.append_assoc]
    · rw [List.length_append]; omega
  case raise | hang | refuse => exact ⟨hcfg, a, htrace, by omega⟩

theorem appendsAtMost_nothing {op : State → Flow} (h : ∀ s, (op s).state.cfg = s.cfg ∧ (op s).state.trace = s.trace)
    (r w : Nat) : AppendsAtMost r w op := fun s =>
  have ⟨hcfg, htrace⟩ := h s
  ⟨hcfg, [], by rw [htrace, List.append_nil], Nat.zero_le _⟩

theorem appendsAtMost_forEach {α : Type} {r w : Nat} {op : α → State → Flow} (h : ∀ a, AppendsAtMost r w (op a)) (l : List α) :
    AppendsAtMost (l.length * r) (l.length * w) (forEach op l) := by
  induction l with
  | nil => exact appendsAtMost_nothing (fun _ => ⟨rfl, rfl⟩) _ _
  | cons a l ih =>
    rw [List.length_cons, Nat.succ_mul, Nat.succ_mul, Nat.add_comm _ r, Nat.add_comm _ w]
    exact appendsAtMost_andThen (h a) ih

/-- R17: a refused operation appends nothing. -/
theorem appendsAtMost_admitted {r w : Nat} {o : Opcode} {checks : State → Option RefusalReason} {body : State → Flow}
    (h : AppendsAtMost r w body) : AppendsAtMost r w (admitted o checks body) := by
  intro s
  rcases admitted_cases o checks body s with ⟨r, -, e⟩ | ⟨r, -, -, e⟩ | ⟨-, -, -, e⟩ <;> rw [e]
  · exact ⟨rfl, [], (List.append_nil _).symm, Nat.zero_le _⟩
  · exact ⟨rfl, [], (List.append_nil _).symm, Nat.zero_le _⟩
  · exact h s

/-! ## The operations -/

theorem appendsAtMost_ensureExported (i : Line) : AppendsAtMost 1 0 (ensureExported i) := by
  refine appendsAtMost_admitted fun s => ?_
  obtain ⟨m, hm, p, h⟩ := exportLoop_cases i s.cfg.exportMaxAttempts s
  have hlen : (List.replicate m (Event.exportReq i)).length ≤ 1 * s.cfg.exportMaxAttempts + 0 := by
    rw [List.length_replicate]; omega
  rcases h with e | ⟨info, e⟩ | e <;> rw [e] <;> exact ⟨rfl, _, rfl, hlen⟩

theorem appendsAtMost_writeDirection (i : Line) : AppendsAtMost 0 1 (writeDirection i) := by
  intro s
  rcases writeDirection_cases i s with ⟨-, e⟩ | ⟨err, -, e⟩ | ⟨-, e⟩ <;> rw [e] <;> exact ⟨rfl, [.setDir i], rfl, by simp⟩

theorem appendsAtMost_setDirection (i : Line) : AppendsAtMost 1 1 (setDirection i) :=
  appendsAtMost_admitted (appendsAtMost_andThen (appendsAtMost_ensureExported i) (appendsAtMost_writeDirection i))

theorem appendsAtMost_driveLevel (i : Line) (b : Bool) : AppendsAtMost 0 1 (driveLevel i b) := by
  intro s
  rcases driveLevel_cases i b s with ⟨-, e⟩ | ⟨err, -, e⟩ | ⟨-, e⟩ <;> rw [e] <;> exact ⟨rfl, [.write i b], rfl, by simp⟩

theorem appendsAtMost_writeLevel (i : Line) (b : Bool) : AppendsAtMost 0 1 (writeLevel i b) :=
  appendsAtMost_admitted (appendsAtMost_driveLevel i b)

theorem appendsAtMost_pulse (i : Line) : AppendsAtMost 0 2 (pulse i) :=
  appendsAtMost_admitted (appendsAtMost_andThen (appendsAtMost_writeLevel i true) (appendsAtMost_writeLevel i false))

theorem appendsAtMost_sendBits (n : Nat) (v : Byte) : AppendsAtMost 0 (3 * n) (sendBits n v) := by
  induction n generalizing v with
  | zero => exact appendsAtMost_nothing (fun _ => ⟨rfl, rfl⟩) _ _
  | succ n ih =>
    rw [Nat.mul_succ, Nat.add_comm]
    exact appendsAtMost_andThen
      (appendsAtMost_andThen (appendsAtMost_writeLevel .data _) (appendsAtMost_pulse .clk)) (ih _)

theorem appendsAtMost_sendByte (v : Byte) : AppendsAtMost 0 24 (sendByte v) :=
  appendsAtMost_admitted (appendsAtMost_sendBits 8 v)

theorem appendsAtMost_loadFrequency (f p : Nat) (d : Bool) : AppendsAtMost 0 122 (loadFrequency f p d) :=
  appendsAtMost_admitted
    (appendsAtMost_andThen (appendsAtMost_forEach appendsAtMost_sendByte (frameOf f p d)) (appendsAtMost_pulse .update))

/-- R83: two calls of ENSURE_EXPORTED and a direction write for each line, then ten level writes. -/
theorem appendsAtMost_initializeLines : AppendsAtMost 8 14 initializeLines := by
  have hprepare (i : Line) : AppendsAtMost 2 1 (prepareLine i) :=
    appendsAtMost_andThen (appendsAtMost_ensureExported i) (appendsAtMost_setDirection i)
  exact appendsAtMost_admitted <|
    appendsAtMost_andThen (appendsAtMost_forEach hprepare allLines) <|
    appendsAtMost_andThen (appendsAtMost_forEach (fun i => appendsAtMost_writeLevel i false) Config.initLowOrder) <|
    appendsAtMost_andThen (appendsAtMost_forEach appendsAtMost_pulse [.reset, .clk, .update]) <|
    appendsAtMost_nothing (fun _ => ⟨rfl, rfl⟩) 0 0

theorem appendsAtMost_bootAndLoad (f p : Nat) (d : Bool) : AppendsAtMost 8 136 (bootAndLoad f p d) :=
  appendsAtMost_andThen appendsAtMost_initializeLines <|
  appendsAtMost_andThen (appendsAtMost_loadFrequency f p d) <|
  appendsAtMost_nothing (fun _ => ⟨rfl, rfl⟩) 0 0

theorem appendsAtMost_setFreq (f p : Nat) : AppendsAtMost 8 136 (setFreq f p) := by
  refine appendsAtMost_admitted ?_
  by_cases hf : f > Config.fmax
  · simpa only [if_pos hf] using appendsAtMost_nothing (op := .raise .freqMax) (fun _ => ⟨rfl, rfl⟩) 8 136
  · simpa only [if_neg hf] using appendsAtMost_bootAndLoad f p false

theorem appendsAtMost_shutdown : AppendsAtMost 8 136 shutdown := appendsAtMost_admitted (appendsAtMost_bootAndLoad 0 0 true)

/-- R89: the bound of each command is that of its operation. -/
theorem appendsAtMost_operation (i : Instr) :
    ∃ r w, AppendsAtMost r w (operation i) ∧ ∀ n, r * n + w = eventBound n i := by
  cases i with
  | ensureExported i => exact ⟨1, 0, appendsAtMost_ensureExported i, Nat.one_mul⟩
  | setDirection i => exact ⟨1, 1, appendsAtMost_setDirection i, fun n => by rw [Nat.one_mul]; rfl⟩
  | writeLevel i b => exact ⟨0, 1, appendsAtMost_writeLevel i b, fun n => by rw [Nat.zero_mul]; rfl⟩
  | pulse i => exact ⟨0, 2, appendsAtMost_pulse i, fun n => by rw [Nat.zero_mul]; rfl⟩
  | sendByte v => exact ⟨0, 24, appendsAtMost_sendByte v, fun n => by rw [Nat.zero_mul]; rfl⟩
  | loadFrequency f p d => exact ⟨0, 122, appendsAtMost_loadFrequency f p d, fun n => by rw [Nat.zero_mul]; rfl⟩
  | initializeLines => exact ⟨8, 14, appendsAtMost_initializeLines, fun _ => rfl⟩
  | setFreq f p => exact ⟨8, 136, appendsAtMost_setFreq f p, fun _ => rfl⟩
  | shutdown => exact ⟨8, 136, appendsAtMost_shutdown, fun _ => rfl⟩

/-- Settles O43: the ending of a command adds no event to those of its operation. -/
theorem commandsAreBounded : Obligations.CommandsAreBounded := by
  intro i s t h
  rw [exec_eq_finish] at h
  cases h
  obtain ⟨r, w, hop, hbound⟩ := appendsAtMost_operation i
  obtain ⟨-, l, htrace, hlen⟩ := hop s
  exact ⟨l, (finish_trace _).trans htrace, hlen.trans_eq (hbound _)⟩

end Sys2Proof.Machine
end

section
/-! PROOFS. The bootstrap (R83) and the host commands SET_FREQ and SHUTDOWN (R86, R87) under a platform that answers well: the
whole state they leave, and what the receiver takes from it (R55). -/

namespace Sys2Proof.Machine

/-! ## One line prepared -/

/-- R83: the state after a line, absent `m` times and then present, was exported and made an output. -/
def State.prepared (s : State) (i : Line) (m : Nat) : State :=
  { s with
    pins := linesSet s.pins i { exported := true, dir := .out, level := none }
    trace := s.trace ++ List.replicate m (.exportReq i) ++ [.setDir i]
    platform := s.platform.after (countOf i (m + 2)) m 1 0 }

theorem probeAnswer_prepared (s : State) (i j : Line) (m k : Nat) :
    (s.prepared i m).probeAnswer j k = s.probeAnswer j ((if j = i then m + 2 else 0) + k) := by
  simp [State.prepared, State.probeAnswer, Platform.after]

theorem exportAnswer_prepared (s : State) (i : Line) (m k : Nat) :
    (s.prepared i m).exportAnswer k = s.exportAnswer (m + k) := by
  simp [State.prepared, State.exportAnswer, Platform.after]

theorem dirAnswer_prepared (s : State) (i : Line) (m k : Nat) : (s.prepared i m).dirAnswer k = s.dirAnswer (1 + k) := by
  simp [State.prepared, State.dirAnswer, Platform.after]

/-- The direction write of a line already made present finds it so at once. -/
theorem directed_setExported_probed (s : State) (i : Line) (m : Nat) :
    ((s.probed i (m + 1) m).setExported i).directed i 0 .out = s.prepared i m := by
  simp [State.directed, State.probed, State.requested, State.setExported, State.setPin, State.prepared]

/-- R83: a line present at two probes after `m` requests, at most as many as allowed, is made an output. -/
theorem prepareLine_ok {s : State} {i : Line} {m : Nat} (hc : configValid s.cfg = true) (hs : s.sess ≠ .halted)
    (hm : m ≤ s.cfg.exportMaxAttempts) (h : s.PresentAfter i m) (hagain : s.probeAnswer i (m + 1) = .present)
    (hd : s.dirAnswer 0 = .ok) : prepareLine i s = .ok (s.prepared i m) := by
  have hensure : ensureExported i s = .ok ((s.probed i (m + 1) m).setExported i) :=
    (ensureExported_eq_exportLoop hc hs i).trans (exportLoop_present hm h)
  have hpresent : ((s.probed i (m + 1) m).setExported i).PresentAfter i 0 :=
    ⟨fun k hk => absurd hk k.not_lt_zero, fun k hk => absurd hk k.not_lt_zero, (probeAnswer_probed s i _ m 0).trans hagain⟩
  rw [prepareLine, hensure, andThen_ok, ← directed_setExported_probed]
  exact setDirection_ok hc hs (Nat.zero_le _) hpresent ((dirAnswer_probed s i _ m 0).trans hd)

/-! ## All lines prepared -/

/-- R83: a line is absent at its next `m` probes and present at the two after them. -/
def State.PresentTwice (s : State) (i : Line) (m : Nat) : Prop :=
  (∀ k < m, s.probeAnswer i k = .absent) ∧ s.probeAnswer i m = .present ∧ s.probeAnswer i (m + 1) = .present

/-- Probes of another line leave those of a line to come. -/
theorem presentTwice_prepared {s : State} {i j : Line} {n : Nat} (h : s.PresentTwice j n) (hne : j ≠ i) (m : Nat) :
    (s.prepared i m).PresentTwice j n := by
  simpa [State.PresentTwice, probeAnswer_prepared, hne] using h

/-- R83: the state after the lines of a list were prepared, each after its own number of requests. -/
def State.preparedAll (m : Lines Nat) : List Line → State → State
  | [], s => s
  | i :: l, s => (s.prepared i (linesGet m i)).preparedAll m l

theorem forEach_prepareLine_ok {m : Lines Nat} {l : List Line} {s : State} (hl : l.Nodup) (hc : configValid s.cfg = true)
    (hs : s.sess ≠ .halted) (hm : ∀ i, linesGet m i ≤ s.cfg.exportMaxAttempts)
    (hp : ∀ i ∈ l, s.PresentTwice i (linesGet m i)) (he : s.NextExportsOk (l.map (linesGet m)).sum)
    (hd : s.NextDirsOk l.length) :
    forEach prepareLine l s = .ok (s.preparedAll m l) := by
  induction l generalizing s with
  | nil => rfl
  | cons i l ih =>
    obtain ⟨hi, hl⟩ := List.nodup_cons.mp hl
    rw [List.map_cons, List.sum_cons] at he
    obtain ⟨habs, hpres, hagain⟩ := hp i List.mem_cons_self
    have hfirst : prepareLine i s = .ok (s.prepared i (linesGet m i)) :=
      prepareLine_ok hc hs (hm i) ⟨habs, fun k hk => he k (by omega), hpres⟩ hagain (hd 0 (Nat.succ_pos _))
    rw [forEach, hfirst, andThen_ok]
    refine ih hl hc hs hm (fun j hj => ?_) (fun k hk => ?_) fun k hk => ?_
    · exact presentTwice_prepared (hp j (List.mem_cons_of_mem i hj)) (ne_of_mem_of_not_mem hj hi) _
    · rw [exportAnswer_prepared]
      exact he _ (by omega)
    · rw [dirAnswer_prepared]
      exact hd _ (by rw [List.length_cons]; omega)

/-! ## The ten level writes of the bootstrap -/

/-- R83: the level writes of the bootstrap. -/
def bootstrapDrives : List (Line × Bool) :=
  Config.initLowOrder.flatMap (fun i => [(i, false)]) ++ [Line.reset, .clk, .update].flatMap pulseWrites

theorem forEach_eq_driveAll {α : Type} {op : α → State → Flow} {drives : α → List (Line × Bool)} {s : State}
    (h : ∀ a t, SameGate s t → op a t = driveAll (drives a) t) (l : List α) {t : State} (g : SameGate s t) :
    forEach op l t = driveAll (l.flatMap drives) t := by
  induction l generalizing t with
  | nil => rfl
  | cons a l ih =>
    rw [forEach, h a t g, List.flatMap_cons, driveAll_append]
    exact driveAll_andThen_congr fun u hu => ih (g.trans' hu)

/-- R83: with every line an output, what follows the direction writes is ten level writes. -/
theorem bootstrapLevels_eq_driveAll {s : State} (hc : configValid s.cfg = true) (hs : s.sess ≠ .halted) (ho : s.AllOutputs) :
    ((forEach driveLow Config.initLowOrder s).andThen (forEach pulse [.reset, .clk, .update])) =
      driveAll bootstrapDrives s := by
  have hlow (i : Line) (t : State) (g : SameGate s t) : driveLow i t = driveAll [(i, false)] t :=
    writeLevel_eq_driveAll (g.cfg ▸ hc) (g.sess ▸ hs) ((g.output i).trans (ho i))
  have hpulse (i : Line) (t : State) (g : SameGate s t) : pulse i t = driveAll (pulseWrites i) t :=
    pulse_eq_driveAll (g.cfg ▸ hc) (g.sess ▸ hs) ((g.output i).trans (ho i))
  rw [forEach_eq_driveAll hlow _ (SameGate.rfl' s), bootstrapDrives, driveAll_append]
  exact driveAll_andThen_congr fun t g => forEach_eq_driveAll hpulse _ g

/-! ## INITIALIZE -/

/-- R83: the record of a line after the bootstrap. -/
def Pin.low : Pin := { exported := true, dir := .out, level := some false }

/-- R83: the state a bootstrap leaves, each line present after its own number of requests. -/
def State.bootedAfter (s : State) (m : Lines Nat) : State :=
  { s with
    pins := linesAll .low
    sess := .booted
    trace := s.trace ++ allLines.flatMap (fun i => List.replicate (linesGet m i) (.exportReq i) ++ [.setDir i]) ++
      bootstrapWrites
    platform := s.platform.after (linesAdd m (linesAll 2)) (linesSum m) 4 10 }

/-- R83: the state once every line was prepared: that of the bootstrap but for the ten level writes and the session state. -/
def State.outputsAfter (s : State) (m : Lines Nat) : State :=
  { s with
    pins := linesAll { exported := true, dir := .out, level := none }
    trace := s.trace ++ allLines.flatMap fun i => List.replicate (linesGet m i) (.exportReq i) ++ [.setDir i]
    platform := s.platform.after (linesAdd m (linesAll 2)) (linesSum m) 4 0 }

theorem preparedAll_allLines (s : State) (m : Lines Nat) : s.preparedAll m allLines = s.outputsAfter m := by
  have hcount : linesAdd (linesAdd (linesAdd (countOf .clk (m.clk + 2)) (countOf .update (m.update + 2)))
      (countOf .data (m.data + 2))) (countOf .reset (m.reset + 2)) = linesAdd m (linesAll 2) :=
    lines_ext fun i => by cases i <;> simp <;> rfl
  simp [State.preparedAll, State.prepared, State.outputsAfter, allLines, linesGet, linesSet, linesAll, linesSum, hcount]

/-- R83: every line is made an output, after its own number of requests. -/
theorem forEach_prepareLine_allLines {s : State} {m : Lines Nat} (hc : configValid s.cfg = true) (hs : s.sess ≠ .halted)
    (hm : ∀ i, linesGet m i ≤ s.cfg.exportMaxAttempts) (hp : s.PresentAfterEach m) (hd : s.NextDirsOk 4) :
    forEach prepareLine allLines s = .ok (s.outputsAfter m) := by
  obtain ⟨hprobes, hexports⟩ := hp
  have hsum : (allLines.map (linesGet m)).sum = linesSum m := by simp [allLines, linesSum, linesGet]; omega
  rw [← preparedAll_allLines]
  exact forEach_prepareLine_ok (by decide) hc hs hm (fun i _ => hprobes i) (hsum ▸ hexports) hd

theorem boot_wroteAll_outputsAfter (s : State) (m : Lines Nat) :
    ((s.outputsAfter m).wroteAll bootstrapDrives).boot = s.bootedAfter m := by
  rw [State.outputsAfter, State.wroteAll, platform_after_after]
  rfl

/-- R83: INITIALIZE under a platform that answers well. -/
theorem initializeLines_ok {s : State} {m : Lines Nat} (hc : configValid s.cfg = true) (hs : s.sess = .uninit)
    (hm : ∀ i, linesGet m i ≤ s.cfg.exportMaxAttempts) (hp : s.PresentAfterEach m) (hd : s.NextDirsOk 4)
    (hw : s.NextWritesOk 10) : initializeLines s = .ok (s.bootedAfter m) := by
  have hopen : s.sess ≠ .halted := by simp [hs]
  have hout : (s.outputsAfter m).AllOutputs := fun i => by cases i <;> rfl
  have hgood : (s.outputsAfter m).NextWritesOk 10 := fun k hk => by
    simpa [State.outputsAfter, State.writeAnswer, Platform.after] using hw k hk
  have hlevels := (bootstrapLevels_eq_driveAll (s := s.outputsAfter m) hc hopen hout).trans (driveAll_ok hgood)
  rw [initializeLines, admitted_run hc (by rw [hs]; rfl) rfl, bootstrap_eq_accesses, bootstrapAccesses,
    forEach_prepareLine_allLines hc hopen hm hp hd, andThen_ok, hlevels, andThen_ok, boot_wroteAll_outputsAfter]

/-- Settles O30: the lines are prepared one after the other, and the ten writes find them outputs. -/
theorem initializeBootsAfterExports : Obligations.InitializeBootsAfterExports := fun _ _ hc hs hm hp hd hw =>
  exec_of_operation .initializeLines (initializeLines_ok hc hs hm hp hd hw)

/-- R42: lines present at their next two probes need no request. -/
theorem presentAfterEach_zero {s : State} (h : s.NextProbesPresent 2) : s.PresentAfterEach (linesAll 0) :=
  ⟨fun i => by
    rw [linesGet_linesAll]
    exact ⟨fun k hk => absurd hk k.not_lt_zero, h i 0 (by omega), h i 1 (by omega)⟩, fun k hk => absurd hk k.not_lt_zero⟩

theorem initializeLines_ok_healthy {s : State} (hc : configValid s.cfg = true) (hs : s.sess = .uninit)
    (h : s.HealthyFor 2 4 10) : initializeLines s = .ok (s.bootedAfter (linesAll 0)) := by
  obtain ⟨hprobes, hdirs, hwrites⟩ := h
  exact initializeLines_ok hc hs (by simp) (presentAfterEach_zero hprobes) hdirs hwrites

/-- Settles O29: no line needs a request. -/
theorem initializeBoots : Obligations.InitializeBoots := by
  intro s hc hs h
  rw [exec_of_operation .initializeLines (initializeLines_ok_healthy hc hs h), finish_ok, State.bootedAfter,
    List.append_assoc]
  rfl

/-! ## SET_FREQ and SHUTDOWN -/

/-- R86, R87: the state of a session that has loaded one frame. -/
def State.loaded (s : State) (f p : Nat) (d : Bool) : State :=
  { s with
    pins := { clk := .low, update := .low, data := { Pin.low with level := some (p.testBit 4) }, reset := .low }
    sess := .halted
    exit := some 0
    trace := s.trace ++ bootstrapEvents ++ frameEvents (frameOf f p d)
    platform := s.platform.after (linesAll 2) 0 4 132 }

theorem endSession_wroteAll_frame (s : State) (f p : Nat) (d : Bool) :
    ((s.bootedAfter (linesAll 0)).wroteAll (frameWrites (frameOf f p d))).endSession = s.loaded f p d := by
  rw [State.wroteAll, ← frameEvents_eq, drivenPins_frameEvents, frameWrites_length, State.bootedAfter, platform_after_after,
    List.append_assoc s.trace]
  rfl

theorem bootAndLoad_ok {s : State} {f p : Nat} (d : Bool) (hc : configValid s.cfg = true) (hs : s.sess = .uninit)
    (h : s.HealthyFor 2 4 132) (hf : f ≤ 40000000) (hp : p ≤ 31) : bootAndLoad f p d s = .ok (s.loaded f p d) := by
  obtain ⟨hprobes, hdirs, hwrites⟩ := h
  have hboot := initializeLines_ok_healthy hc hs ⟨hprobes, hdirs, fun k hk => hwrites k (by omega)⟩
  have hgood : (s.bootedAfter (linesAll 0)).NextWritesOk 122 := fun k hk => by
    simpa [State.bootedAfter, State.writeAnswer, Platform.after] using hwrites (10 + k) (by omega)
  have hload := loadFrequency_ok (d := d) (s := s.bootedAfter (linesAll 0)) hc rfl (fun i => by cases i <;> rfl) hf hp hgood
  rw [bootAndLoad, hboot, andThen_ok, hload, andThen_ok, endSession_wroteAll_frame]

theorem setFreq_ok {s : State} {f p : Nat} (hc : configValid s.cfg = true) (hs : s.sess = .uninit)
    (h : s.HealthyFor 2 4 132) (hf : f ≤ 40000000) (hp : p ≤ 31) : setFreq f p s = .ok (s.loaded f p false) :=
  (setFreq_eq_bootAndLoad hc hs hf hp).trans (bootAndLoad_ok false hc hs h hf hp)

theorem shutdown_ok {s : State} (hc : configValid s.cfg = true) (hs : s.sess = .uninit) (h : s.HealthyFor 2 4 132) :
    shutdown s = .ok (s.loaded 0 0 true) := by
  rw [shutdown, admitted_run hc (by rw [hs]; rfl) rfl]
  exact bootAndLoad_ok true hc hs h (by omega) (by omega)

/-- R87: the bytes of SHUTDOWN. -/
theorem frameOf_shutdown : frameOf 0 0 true = [0x00, 0x00, 0x00, 0x00, 0x04] := by decide

/-- Settles O31: the bootstrap's 14 events and the frame's 122, and then the session ends. -/
theorem hostCommandsComplete : Obligations.HostCommandsComplete := by
  intro s hc hs h
  refine ⟨fun f p hf hp => ⟨?_, exec_of_operation (.setFreq f p) (setFreq_ok hc hs h hf hp)⟩, ?_⟩
  · rw [List.length_append, length_frameEvents_frameOf]
    rfl
  · rw [← frameOf_shutdown]
    exact exec_of_operation .shutdown (shutdown_ok hc hs h)

/-! ## What the receiver takes from SET_FREQ -/

/-- R86, R87: after a whole session no segment is open. -/
theorem cur_receiverOf_session (f p : Nat) (d : Bool) :
    (receiverOf (bootstrapEvents ++ frameEvents (frameOf f p d))).cur = .empty := by
  rw [receiverOf_append, receiverOf_bootstrapEvents]
  exact (seeAll_frameEvents f p d rfl rfl rfl).2

/-- R58: the value of a control word, its control byte above its tuning word. -/
theorem wordOf_toNat {f p : Nat} (hf : f ≤ 40000000) (hp : p ≤ 31) :
    (wordOf f p false).toNat = 8 * p * 2 ^ 32 + f * 2 ^ 32 / 125000000 := by
  rw [wordOf, controlWord, toNat_append_eq_add, controlByte_toNat false hp, tuningWord_toNat hf]
  simp [Nat.mul_comm]

/-- Settles O47: the receiver takes the bootstrap's segment and that of the control word, whose value is made of the operands. -/
theorem setFreqDeliversTheWord : Obligations.SetFreqDeliversTheWord := by
  intro s f p hclean hc h hf hp
  have hs : s.sess = .uninit := by rw [hclean]; rfl
  have hcause : (s.loaded f p false).cause = .none := by rw [hclean]; rfl
  have hstuck : (s.loaded f p false).stuck = false := by rw [hclean]; rfl
  have htrace : (s.loaded f p false).trace = bootstrapEvents ++ frameEvents (frameOf f p false) := by rw [hclean]; rfl
  have hval := wordOf_toNat hf hp
  refine ⟨s.loaded f p false, wordOf f p false, exec_of_operation (.setFreq f p) (setFreq_ok hc hs h hf hp), rfl, ?_, ?_,
    by omega, by omega⟩
  · rw [receiverView_eq hcause hstuck, htrace, segs_receiverOf_session]
  · rw [receiverView_eq hcause hstuck, htrace, cur_receiverOf_session]

end Sys2Proof.Machine
end

section
/-! PROOFS. How a command ends that does not complete: the exceptions (R92, R97) and the hang (R99). Until its end an operation
stays in its session and raises `E_IO` only; `E_FREQ_MAX` is raised at one place, before SET_FREQ has done anything. -/

namespace Sys2Proof.Machine

/-! ## The operations that stay in their session -/

/-- R22, R25: the session is open and the exit status is `e`. -/
def State.OpenWith (e : Option Int) (s : State) : Prop := s.sess ≠ .halted ∧ s.exit = e

/-- An operation completes in a state that meets `P`, raises no exception but `E_IO`, and hangs only in an open session with
the exit status `e`. -/
def Flow.InSession (e : Option Int) (P : State → Prop) (m : Flow) : Prop :=
  match m with
  | .ok t => P t
  | .raise x _ => ∃ info, x = .io info
  | .hang t => t.OpenWith e
  | .refuse _ _ => True

theorem Flow.InSession.mono {e : Option Int} {P Q : State → Prop} {m : Flow} (h : m.InSession e P) (hpq : ∀ t, P t → Q t) :
    m.InSession e Q := by
  cases m with
  | ok t => exact hpq t h
  | raise | hang | refuse => exact h

theorem Flow.InSession.andThen {e : Option Int} {P Q : State → Prop} {m : Flow} {k : State → Flow} (h : m.InSession e P)
    (hk : ∀ t, P t → (k t).InSession e Q) : (m.andThen k).InSession e Q := by
  cases m with
  | ok t => exact hk t h
  | raise | hang | refuse => exact h

/-- R96: an operation refused at its admission or by its own checks has neither raised nor hung. -/
theorem inSession_admitted {e : Option Int} {P : State → Prop} {o : Opcode} {checks : State → Option RefusalReason}
    {body : State → Flow} {s : State} (h : (body s).InSession e P) : (admitted o checks body s).InSession e P := by
  rcases admitted_cases o checks body s with ⟨r, -, hrun⟩ | ⟨r, -, -, hrun⟩ | ⟨-, -, -, hrun⟩ <;> rw [hrun]
  · trivial
  · trivial
  · exact h

/-- An operation that, begun in an open session, leaves it open and the exit status unwritten. -/
def StaysOpen (op : State → Flow) : Prop := ∀ e s, s.OpenWith e → (op s).InSession e (State.OpenWith e)

theorem staysOpen_andThen {op k : State → Flow} (h : StaysOpen op) (hk : StaysOpen k) :
    StaysOpen fun s => (op s).andThen k := fun e s hs => (h e s hs).andThen (hk e)

theorem staysOpen_admitted {o : Opcode} {checks : State → Option RefusalReason} {body : State → Flow} (h : StaysOpen body) :
    StaysOpen (admitted o checks body) := fun e s hs => inSession_admitted (h e s hs)

theorem staysOpen_forEach {α : Type} {op : α → State → Flow} (h : ∀ a, StaysOpen (op a)) (l : List α) :
    StaysOpen (forEach op l) := by
  induction l with
  | nil => exact fun _ _ hs => hs
  | cons a l ih => exact staysOpen_andThen (h a) ih

theorem staysOpen_ensureExported (i : Line) : StaysOpen (ensureExported i) := by
  refine staysOpen_admitted fun e s hs => ?_
  obtain ⟨m, -, p, h | ⟨info, h⟩ | h⟩ := exportLoop_cases i s.cfg.exportMaxAttempts s <;> rw [h]
  · exact hs
  · exact ⟨info, rfl⟩
  · exact hs

theorem staysOpen_writeDirection (i : Line) : StaysOpen (writeDirection i) := by
  intro e s hs
  rcases writeDirection_cases i s with ⟨-, h⟩ | ⟨err, -, h⟩ | ⟨-, h⟩ <;> rw [h]
  · exact hs
  · exact ⟨.os err, rfl⟩
  · exact hs

theorem staysOpen_setDirection (i : Line) : StaysOpen (setDirection i) :=
  staysOpen_admitted (staysOpen_andThen (staysOpen_ensureExported i) (staysOpen_writeDirection i))

theorem staysOpen_driveLevel (i : Line) (b : Bool) : StaysOpen (driveLevel i b) := by
  intro e s hs
  rcases driveLevel_cases i b s with ⟨-, h⟩ | ⟨err, -, h⟩ | ⟨-, h⟩ <;> rw [h]
  · exact hs
  · exact ⟨.os err, rfl⟩
  · exact hs

theorem staysOpen_writeLevel (i : Line) (b : Bool) : StaysOpen (writeLevel i b) :=
  staysOpen_admitted (staysOpen_driveLevel i b)

theorem staysOpen_pulse (i : Line) : StaysOpen (pulse i) :=
  staysOpen_admitted (staysOpen_andThen (staysOpen_writeLevel i true) (staysOpen_writeLevel i false))

theorem staysOpen_sendBits (n : Nat) (v : Byte) : StaysOpen (sendBits n v) := by
  induction n generalizing v with
  | zero => exact fun _ _ hs => hs
  | succ n ih =>
    exact staysOpen_andThen (staysOpen_andThen (staysOpen_writeLevel .data _) (staysOpen_pulse .clk)) (ih _)

theorem staysOpen_sendByte (v : Byte) : StaysOpen (sendByte v) := staysOpen_admitted (staysOpen_sendBits 8 v)

theorem staysOpen_loadFrequency (f p : Nat) (d : Bool) : StaysOpen (loadFrequency f p d) :=
  staysOpen_admitted (staysOpen_andThen (staysOpen_forEach staysOpen_sendByte _) (staysOpen_pulse .update))

/-- R83: INITIALIZE changes the session state, and leaves it open. -/
theorem staysOpen_initializeLines : StaysOpen initializeLines := by
  have hprepare (i : Line) : StaysOpen (prepareLine i) :=
    staysOpen_andThen (staysOpen_ensureExported i) (staysOpen_setDirection i)
  exact staysOpen_admitted <|
    staysOpen_andThen (staysOpen_forEach hprepare _) <|
    staysOpen_andThen (staysOpen_forEach (fun i => staysOpen_writeLevel i false) _) <|
    staysOpen_andThen (staysOpen_forEach staysOpen_pulse _) fun _ _ hs => ⟨nofun, hs.2⟩

/-! ## Every command -/

/-- R86, R87: bootstrap and frame stay in the session; its end is written last. -/
theorem inSession_bootAndLoad {e : Option Int} {s : State} (hs : s.OpenWith e) (f p : Nat) (d : Bool) :
    (bootAndLoad f p d s).InSession e fun _ => True :=
  (staysOpen_initializeLines e s hs).andThen fun t ht =>
    (staysOpen_loadFrequency f p d e t ht).andThen fun _ _ => trivial

theorem StaysOpen.inSession {op : State → Flow} (h : StaysOpen op) {e : Option Int} {s : State} (hs : s.OpenWith e) :
    (op s).InSession e fun _ => True := (h e s hs).mono fun _ _ => trivial

/-- R92: SET_FREQ raises `E_FREQ_MAX` before it has changed anything, or stays in its session to its end. -/
theorem setFreq_freqMax_or_inSession {e : Option Int} {s : State} (hs : s.OpenWith e) (f p : Nat) :
    (f > 40000000 ∧ setFreq f p s = .raise .freqMax s) ∨ (setFreq f p s).InSession e fun _ => True := by
  by_cases hf : f > 40000000
  · rcases admitted_cases .setFreq (phaseCheck p)
      (fun s => if f > Config.fmax then .raise .freqMax s else bootAndLoad f p false s) s with
      ⟨r, -, hrun⟩ | ⟨r, -, -, hrun⟩ | ⟨-, -, -, hrun⟩
    · rw [setFreq, hrun]
      exact .inr trivial
    · rw [setFreq, hrun]
      exact .inr trivial
    · exact .inl ⟨hf, hrun.trans (if_pos hf)⟩
  · refine .inr (inSession_admitted ?_)
    rw [if_neg (show ¬ f > Config.fmax from hf)]
    exact inSession_bootAndLoad hs f p false

theorem inSession_shutdown {e : Option Int} {s : State} (hs : s.OpenWith e) : (shutdown s).InSession e fun _ => True :=
  inSession_admitted (inSession_bootAndLoad hs 0 0 true)

/-- R82: in a halted session every command is refused. -/
theorem operation_of_halted (i : Instr) {s : State} (h : s.sess = .halted) : ∃ r, operation i s = .refuse r s := by
  obtain ⟨checks, body, hop⟩ := operation_eq_admitted i
  obtain ⟨r, hr⟩ := admission_of_halted i.opcode h
  exact ⟨r, by rw [hop, admitted_refuse hr]⟩

/-- R90, R99: what a command that does not complete has raised, or where it hangs. -/
theorem operation_freqMax_or_inSession (i : Instr) (s : State) :
    ((∃ f p, i = .setFreq f p ∧ f > 40000000) ∧ operation i s = .raise .freqMax s) ∨
      (operation i s).InSession s.exit fun _ => True := by
  by_cases hhalt : s.sess = .halted
  · obtain ⟨r, hr⟩ := operation_of_halted i hhalt
    rw [hr]
    exact .inr trivial
  · have hs : s.OpenWith s.exit := ⟨hhalt, rfl⟩
    cases i with
    | ensureExported i => exact .inr ((staysOpen_ensureExported i).inSession hs)
    | setDirection i => exact .inr ((staysOpen_setDirection i).inSession hs)
    | writeLevel i b => exact .inr ((staysOpen_writeLevel i b).inSession hs)
    | pulse i => exact .inr ((staysOpen_pulse i).inSession hs)
    | sendByte v => exact .inr ((staysOpen_sendByte v).inSession hs)
    | loadFrequency f p d => exact .inr ((staysOpen_loadFrequency f p d).inSession hs)
    | initializeLines => exact .inr (staysOpen_initializeLines.inSession hs)
    | setFreq f p => exact (setFreq_freqMax_or_inSession hs f p).imp_left fun ⟨hf, hrun⟩ => ⟨⟨f, p, rfl, hf⟩, hrun⟩
    | shutdown => exact .inr (inSession_shutdown hs)

/-! ## Exceptions -/

/-- R97 (b): only an exception writes the cause. -/
theorem raise_of_cause_finish {m : Flow} (h : m.finish.cause ≠ m.state.cause) : ∃ x t, m = .raise x t := by
  cases m with
  | raise x t => exact ⟨x, t, rfl⟩
  | ok | hang | refuse => exact absurd rfl h

/-- R90: a command that writes the cause has raised `E_IO` in its open session, or is a SET_FREQ that has raised `E_FREQ_MAX`
at once. -/
theorem exec_sets_cause {i : Instr} {s t : State} (h : exec i s = .next t) (hc : t.cause ≠ s.cause) :
    s.sess ≠ .halted ∧
      ((∃ info u, Progress s u ∧ t = u.takeException (.io info)) ∨
        (∃ f p, i = .setFreq f p ∧ f > 40000000) ∧ t = s.takeException .freqMax) := by
  rw [exec_eq_finish] at h
  cases h
  have hp := progress_operation i s
  rw [← hp.cause] at hc
  obtain ⟨x, u, hrun⟩ := raise_of_cause_finish hc
  refine ⟨fun hhalt => ?_, ?_⟩
  · obtain ⟨r, hr⟩ := operation_of_halted i hhalt
    cases hrun.symm.trans hr
  · rcases operation_freqMax_or_inSession i s with ⟨hi, hraise⟩ | hin
    · exact .inr ⟨hi, by rw [hraise, finish_raise]⟩
    · rw [hrun] at hin hp ⊢
      obtain ⟨info, rfl⟩ := hin
      exact .inl ⟨info, u, hp, rfl⟩

/-- Settles O32: the body of SET_FREQ raises before any access; of the two exceptions a command can raise the other one is
`E_IO`; LOAD_FREQUENCY tries the frequency by its own check. -/
theorem freqMaxOnlyFromSetFreq : Obligations.FreqMaxOnlyFromSetFreq := by
  refine ⟨fun s f p hc hs hp hf => exec_of_operation (.setFreq f p) (setFreq_freqMax hc hs hf hp),
    fun i s t h hs ht => ?_, fun s f p d hc hs hf => ⟨_, exec_loadFrequency_refused hc hs (loadCheck_wide_freq hf p s)⟩⟩
  obtain ⟨-, ⟨info, u, -, rfl⟩ | ⟨hi, rfl⟩⟩ := exec_sets_cause h (ht ▸ hs.symm)
  · cases ht
  · exact ⟨hi, rfl⟩

/-- Settles O34: `E_IO` is taken where the operation has made progress, `E_FREQ_MAX` where it has made none. -/
theorem exceptionEndsTheSession : Obligations.ExceptionEndsTheSession := by
  intro i s t h hs ht
  obtain ⟨hopen, ⟨info, u, hp, rfl⟩ | ⟨-, rfl⟩⟩ := exec_sets_cause h (hs ▸ ht)
  · exact ⟨rfl, hopen, hp.trace, hp.exported, fun _ => ⟨rfl, info, rfl⟩, nofun, hp.stuck, hp.refused⟩
  · exact ⟨rfl, hopen, List.prefix_rfl, fun _ hj => hj, nofun, fun _ => ⟨rfl, rfl, rfl, rfl⟩, rfl, rfl⟩

/-! ## Hangs -/

/-- R99: a probe that hangs is the last access of the loop. -/
theorem exportLoop_probe_hangs {s : State} {i : Line} (h : s.probeAnswer i 0 = .hang) (left : Nat) :
    exportLoop i left s = .hang (s.answered (countOf i 1) 0 0 0) := by
  cases left <;> simp [exportLoop, pinProbe, h]

/-- R99: a request that hangs is the last access of the loop. -/
theorem exportLoop_request_hangs {s : State} {i : Line} (hp : s.probeAnswer i 0 = .absent) (h : s.exportAnswer 0 = .hang)
    {left : Nat} (hl : 1 ≤ left) :
    exportLoop i left s = .hang ((s.emit (.exportReq i)).answered (countOf i 1) 1 0 0) := by
  have hstate : ((s.answered (countOf i 1) 0 0 0).emit (.exportReq i)).answered (linesAll 0) 1 0 0 =
      (s.emit (.exportReq i)).answered (countOf i 1) 1 0 0 := by
    simp [State.answered, State.emit]
  obtain ⟨n, rfl⟩ := Nat.exists_eq_add_of_le' hl
  simp [exportLoop, pinProbe, hp, pinExport, h, hstate]

/-- R99: the direction write of a line present at once hangs. -/
theorem setDirection_dir_hangs {s : State} {i : Line} (hc : configValid s.cfg = true) (hs : s.sess ≠ .halted)
    (hp : s.probeAnswer i 0 = .present) (h : s.dirAnswer 0 = .hang) :
    setDirection i s = .hang (((s.setExported i).emit (.setDir i)).answered (countOf i 1) 0 1 0) := by
  have hpresent : s.PresentAfter i 0 :=
    ⟨fun k hk => absurd hk k.not_lt_zero, fun k hk => absurd hk k.not_lt_zero, hp⟩
  have h' : ((s.probed i 1 0).setExported i).dirAnswer 0 = .hang := (dirAnswer_probed s i 1 0 0).trans h
  rw [setDirection_present hc hs (Nat.zero_le _) hpresent, writeDirection, pinSetDir, h']
  simp [State.probed, State.requested, State.setExported, State.setPin, State.emit, State.answered, State.pin]

/-- R99: the write of an output hangs. -/
theorem writeLevel_hangs {s : State} {i : Line} (b : Bool) (hc : configValid s.cfg = true) (hs : s.sess ≠ .halted)
    (ho : s.lineIsOutput i = true) (h : s.writeAnswer 0 = .hang) :
    writeLevel i b s = .hang ((s.emit (.write i b)).answered (linesAll 0) 0 0 1) := by
  rw [writeLevel_eq_driveAll hc hs ho, driveAll_single, driveLevel, pinWrite, h]

/-- R99: only a hang sets the mark of it. -/
theorem hang_of_stuck_finish {m : Flow} (hs : m.state.stuck = false) (h : m.finish.stuck = true) : ∃ t, m = .hang t := by
  cases m with
  | hang t => exact ⟨t, rfl⟩
  | ok | raise | refuse => cases hs.symm.trans h

/-- R99: a command that ends stuck hangs at an access made in its open session, and has written no status. -/
theorem exec_sets_stuck {i : Instr} {s t : State} (h : exec i s = .next t) (hs : s.stuck = false) (ht : t.stuck = true) :
    ∃ u, Progress s u ∧ u.OpenWith s.exit ∧ t = u.hang := by
  rw [exec_eq_finish] at h
  cases h
  have hp := progress_operation i s
  obtain ⟨u, hrun⟩ := hang_of_stuck_finish (hp.stuck.trans hs) ht
  rcases operation_freqMax_or_inSession i s with ⟨-, hraise⟩ | hin
  · cases hrun.symm.trans hraise
  · rw [hrun] at hin hp ⊢
    exact ⟨u, hp, hin, rfl⟩

/-- R99: a stuck block makes no step, and its run is not final. -/
theorem step_of_stuck {s : State} (h : s.stuck = true) : step s = .fault .stuck ∧ s.final = false := by
  simp [step, State.final, h]

/-- Settles O35: each primitive's first access hangs; a hang in any command leaves the status as it was; only `step` reads the
mark. -/
theorem hungAccessLeavesTheBlockStuck : Obligations.HungAccessLeavesTheBlockStuck := by
  refine ⟨fun s i b hc hs => ⟨fun hp => ?_, fun hp hx => ?_, fun hp hd => ?_, fun ho hw => ?_⟩, fun i s t hs h ht => ?_,
    fun s => step_of_stuck⟩
  · exact exec_ensureExported hc hs (exportLoop_probe_hangs hp _)
  · obtain ⟨-, hattempts, -⟩ := (configValid_iff s.cfg).mp hc
    exact exec_ensureExported hc hs (exportLoop_request_hangs hp hx hattempts)
  · exact exec_of_operation (.setDirection i) (setDirection_dir_hangs hc hs hp hd)
  · exact exec_of_operation (.writeLevel i b) (writeLevel_hangs b hc hs ho hw)
  · obtain ⟨u, hp, ⟨hopen, hexit⟩, rfl⟩ := exec_sets_stuck h hs ht
    exact ⟨hp.cause, hp.errinfo, hexit, hopen, hp.refused⟩

end Sys2Proof.Machine
end

section
/-! PROOFS. The launch of the block (R109): its fields, its first step, and the invariant. -/

namespace Sys2Proof.Machine

/-- Settles O13: both states are launch states, which are not stuck, and a word that decodes is read as its command. -/
theorem launchState : Obligations.LaunchState := by
  intro cfg platform inputs s hs
  obtain ⟨c, p, l, rfl⟩ : ∃ c p l, s = State.launch c p l := by
    rcases hs with rfl | rfl
    · exact ⟨cfg, platform, inputs, rfl⟩
    · exact ⟨Config.chosen, Platform.empty, [], rfl⟩
  refine ⟨fun i => ?_, rfl, rfl, rfl, rfl, rfl, rfl, fun w rest i hw => ?_⟩
  · cases i <;> exact ⟨rfl, rfl, rfl⟩
  · exact stepRunsTheDecodedCommand ((State.launch c p l).withInputs (.word w :: rest)) w rest i rfl rfl hw

theorem pin_launch (c : Config) (p : Platform) (l : List HostInput) (i : Line) : (State.launch c p l).pin i = .launch := by
  cases i <;> rfl

/-- R109: the launch state is that of an open session, its levels as unknown to the receiver as to the block. -/
theorem live_launch (c : Config) (p : Platform) (l : List HostInput) : (State.launch c p l).Live where
  status := ⟨nofun, rfl, rfl, rfl, rfl, ⟨nofun, fun h => absurd rfl h⟩⟩
  pins i := by rw [pin_launch]; exact ⟨nofun, fun h => absurd rfl h⟩
  booted := nofun
  levels i := by cases i <;> rfl

/-- Settles O40: the launch state is live. -/
theorem launchIsCoherent : Obligations.LaunchIsCoherent :=
  ⟨fun c p l => coherent_of_live (live_launch c p l), coherent_of_live (live_launch _ _ _)⟩

end Sys2Proof.Machine
end

section
/-! PROOFS. What a bootstrap that completes leaves of the lines and shows the receiver, whatever the platform answered on the
way (R83, R113). -/

namespace Sys2Proof.Machine

/-! ## The session state until the bootstrap is done -/

/-- R22: an operation leaves the session state as it is, wherever it ends. -/
def KeepsSess (op : State → Flow) : Prop := ∀ s, (op s).state.sess = s.sess

theorem keepsSess_andThen {op k : State → Flow} (h : KeepsSess op) (hk : KeepsSess k) :
    KeepsSess fun s => (op s).andThen k := by
  intro s
  have hop := h s
  dsimp only
  cases ho : op s <;> rw [ho] at hop
  case ok t => exact (hk t).trans hop
  case raise | hang | refuse => exact hop

theorem keepsSess_admitted {o : Opcode} {checks : State → Option RefusalReason} {body : State → Flow} (h : KeepsSess body) :
    KeepsSess (admitted o checks body) := by
  intro s
  rcases admitted_cases o checks body s with ⟨r, -, e⟩ | ⟨r, -, -, e⟩ | ⟨-, -, -, e⟩ <;> rw [e]
  · rfl
  · rfl
  · exact h s

theorem keepsSess_forEach {α : Type} {op : α → State → Flow} (h : ∀ a, KeepsSess (op a)) (l : List α) :
    KeepsSess (forEach op l) := by
  induction l with
  | nil => exact fun _ => rfl
  | cons a l ih => exact keepsSess_andThen (h a) ih

theorem keepsSess_ensureExported (i : Line) : KeepsSess (ensureExported i) := by
  refine keepsSess_admitted fun s => ?_
  obtain ⟨m, -, p, h | ⟨info, h⟩ | h⟩ := exportLoop_cases i s.cfg.exportMaxAttempts s <;> rw [h] <;> rfl

theorem keepsSess_writeDirection (i : Line) : KeepsSess (writeDirection i) := by
  intro s
  rcases writeDirection_cases i s with ⟨-, h⟩ | ⟨err, -, h⟩ | ⟨-, h⟩ <;> rw [h] <;> rfl

theorem keepsSess_setDirection (i : Line) : KeepsSess (setDirection i) :=
  keepsSess_admitted (keepsSess_andThen (keepsSess_ensureExported i) (keepsSess_writeDirection i))

theorem keepsSess_writeLevel (i : Line) (b : Bool) : KeepsSess (writeLevel i b) := by
  refine keepsSess_admitted fun s => ?_
  rcases driveLevel_cases i b s with ⟨-, h⟩ | ⟨err, -, h⟩ | ⟨-, h⟩ <;> rw [h] <;> rfl

theorem keepsSess_pulse (i : Line) : KeepsSess (pulse i) :=
  keepsSess_admitted (keepsSess_andThen (keepsSess_writeLevel i true) (keepsSess_writeLevel i false))

/-- R83: none of the bootstrap's accesses touches the session state. -/
theorem keepsSess_bootstrapAccesses : KeepsSess bootstrapAccesses := by
  have hprepare (i : Line) : KeepsSess (prepareLine i) :=
    keepsSess_andThen (keepsSess_ensureExported i) (keepsSess_setDirection i)
  have hlow (i : Line) : KeepsSess (driveLow i) := keepsSess_writeLevel i false
  exact keepsSess_andThen (keepsSess_andThen (keepsSess_forEach hprepare _) (keepsSess_forEach hlow _))
    (keepsSess_forEach keepsSess_pulse _)

/-- R97, R99: an operation that keeps the session state and is followed by the boot leaves `BOOTED` only by completing. -/
theorem ok_of_sess_finish_boot {m : Flow} (hm : m.state.sess ≠ .booted)
    (h : (m.andThen fun t => .ok t.boot).finish.sess = .booted) : ∃ u, m = .ok u := by
  cases m with
  | ok u => exact ⟨u, rfl⟩
  | raise => cases h
  | hang | refuse => exact absurd h hm

/-- R83: an INITIALIZE that newly reaches `BOOTED` has made all its accesses, and then boots. -/
theorem initializeLines_of_booted {s : State} (hs : s.sess ≠ .booted) (h : (initializeLines s).finish.sess = .booted) :
    ∃ u, bootstrapAccesses s = .ok u ∧ initializeLines s = .ok u.boot := by
  rcases admitted_cases .initializeLines noChecks bootstrap s with ⟨r, -, e⟩ | ⟨r, -, -, e⟩ | ⟨-, -, -, e⟩ <;>
    rw [initializeLines, e] at h ⊢
  · exact absurd h hs
  · exact absurd h hs
  · rw [bootstrap_eq_accesses] at h ⊢
    obtain ⟨u, hu⟩ := ok_of_sess_finish_boot (ne_of_eq_of_ne (keepsSess_bootstrapAccesses s) hs) h
    exact ⟨u, hu, by rw [hu, andThen_ok]⟩

/-! ## The lines once the bootstrap's accesses are made -/

/-- A sequence completes where both its parts do. -/
theorem ok_of_andThen_ok {m : Flow} {k : State → Flow} {t : State} (h : m.andThen k = .ok t) : ∃ u, m = .ok u ∧ k u = .ok t := by
  cases m with
  | ok u => exact ⟨u, rfl, h⟩
  | raise | hang | refuse => cases h

/-- R96: an operation that completes has passed its checks and run its body. -/
theorem ok_of_admitted_ok {o : Opcode} {checks : State → Option RefusalReason} {body : State → Flow} {s t : State}
    (h : admitted o checks body s = .ok t) : checks s = none ∧ body s = .ok t := by
  rcases admitted_cases o checks body s with ⟨r, -, e⟩ | ⟨r, -, -, e⟩ | ⟨-, -, hk, e⟩ <;> rw [e] at h
  · cases h
  · cases h
  · exact ⟨hk, h⟩

/-- R75: a WRITE_LEVEL that completes was one of an output, of which it has written the level. -/
theorem pin_of_writeLevel_ok {i : Line} {b : Bool} {s t : State} (h : writeLevel i b s = .ok t) (j : Line) :
    t.pin j = if j = i then { exported := true, dir := .out, level := some b } else s.pin j := by
  obtain ⟨hcheck, hdrive⟩ := ok_of_admitted_ok h
  obtain ⟨hexp, hdir⟩ := (lineIsOutput_iff s i).mp (lineIsOutput_of_lineCheck hcheck)
  rcases driveLevel_cases i b s with ⟨-, e⟩ | ⟨err, -, e⟩ | ⟨-, e⟩ <;> cases e.symm.trans hdrive
  simp [State.wrote, hexp, hdir]

/-- An operation that leaves, where it completes, one line an output at level 0 and the other lines as they were. -/
def LeavesLow (i : Line) (op : State → Flow) : Prop :=
  ∀ s t, op s = .ok t → ∀ j, t.pin j = if j = i then .low else s.pin j

theorem leavesLow_driveLow (i : Line) : LeavesLow i (driveLow i) := fun _ _ h => pin_of_writeLevel_ok h

theorem leavesLow_pulse (i : Line) : LeavesLow i (pulse i) := by
  intro s t h j
  obtain ⟨u, hhigh, hlow⟩ := ok_of_andThen_ok (ok_of_admitted_ok h).2
  rw [leavesLow_driveLow i u t hlow, pin_of_writeLevel_ok hhigh]
  split <;> rfl

theorem pin_of_forEach_ok {op : Line → State → Flow} (hop : ∀ i, LeavesLow i (op i)) {l : List Line} {s t : State}
    (h : forEach op l s = .ok t) (j : Line) : t.pin j = if j ∈ l then .low else s.pin j := by
  induction l generalizing s with
  | nil =>
    cases h
    rfl
  | cons i l ih =>
    obtain ⟨u, hfirst, hrest⟩ := ok_of_andThen_ok h
    rw [ih hrest, hop i s u hfirst]
    by_cases hj : j = i <;> simp [hj]

/-- R83, R113: whatever the lines were, the low writes leave every line an output at level 0, and so do the pulses. -/
theorem pin_of_bootstrapAccesses {s t : State} (h : bootstrapAccesses s = .ok t) (i : Line) : t.pin i = .low := by
  obtain ⟨v, hlow, hpulses⟩ := ok_of_andThen_ok h
  obtain ⟨u, -, hlow⟩ := ok_of_andThen_ok hlow
  have hv : v.pin i = .low := by
    rw [pin_of_forEach_ok leavesLow_driveLow hlow, if_pos]
    cases i <;> decide
  rw [pin_of_forEach_ok leavesLow_pulse hpulses, hv, ite_self]

/-! ## The receiver -/

/-- R55, R89: a command from launch that completes shows the receiver its plan. -/
theorem receiverView_of_completed {i : Instr} {s t : State} (hs : s.CleanLaunch) (h : operation i s = .ok t) :
    receiverView t = receiverOf (plannedEvents i) := by
  have hp := progress_operation i s
  obtain ⟨l, htrace, -, hplan⟩ := follows_operation i s
  rw [h] at hp htrace hplan
  have hcause : t.cause = .none := hp.cause.trans (by rw [hs]; rfl)
  have hstuck : t.stuck = false := hp.stuck.trans (by rw [hs]; rfl)
  have hl : t.trace = l := htrace.trans (by rw [hs]; rfl)
  rw [receiverView_eq hcause hstuck, hl, ← hplan rfl, receiverOf, receiverOf, seeAll_writesOf]

/-- Settles O45: `BOOTED` is reached only after every access, the last writes of each line being low; from launch the receiver
has then seen the writes planned for INITIALIZE. -/
theorem bootstrapAsTheReceiverSeesIt : Obligations.BootstrapAsTheReceiverSeesIt := by
  refine ⟨fun s t h hs ht => ?_, fun s hclean hc hhealthy => ?_⟩
  · rw [exec_eq_finish] at h
    cases h
    obtain ⟨u, haccesses, hinit⟩ := initializeLines_of_booted hs ht
    rw [operation, hinit, finish_ok]
    refine ⟨fun i => ?_, fun hclean => ?_⟩
    · rw [State.pin_boot, pin_of_bootstrapAccesses haccesses]
      exact ⟨rfl, rfl, rfl⟩
    · rw [receiverView_of_completed (i := .initializeLines) hclean hinit, plannedEvents, receiverOf_bootstrapEvents]
      exact ⟨rfl, rfl⟩
  · have hs : s.sess = .uninit := by rw [hclean]; rfl
    exact ⟨_, exec_of_operation .initializeLines (initializeLines_ok_healthy hc hs hhealthy), rfl⟩

end Sys2Proof.Machine
end

section
/-! PROOFS. Command words written out in numbers (R62, R64): each is the word of its command, and so decodes to it. -/

namespace Sys2Proof

/-- R62, R65: a number that is the word of a command whose operands fit decodes to that command. -/
theorem decode_of_encode_eq {i : Instr} {w : CommandWord} (hword : encode i = w) (hfits : i.wellFormed = true) :
    decode w = .ok i :=
  hword ▸ decodeAfterEncode i hfits

/-- Settles O1: each word is packed from its command's operands and row, which is evaluated, and decoding undoes the packing. -/
theorem wordsOfTheSpecDecode : Obligations.WordsOfTheSpecDecode := by
  unfold Obligations.WordsOfTheSpecDecode
  and_intros <;> exact decode_of_encode_eq rfl rfl

end Sys2Proof
end
